-- ==== Sys2Proof/Word.lean ====
section
/-! DEFINITION. The widths of the values of the block (spec/00_scope.md R5, R9, R10): every value is an unsigned bit vector, bit 0 its least significant bit. -/

namespace Sys2Proof

/-- A command word, RES, ERRCMD (R9): 32 bits. -/
abbrev Word := BitVec 32

/-- A parameter register, a CRC register, a table entry (R9): 16 bits of storage. -/
abbrev Half := BitVec 16

/-- A data byte of the stream, or a table index (R50, R76): 8 bits. -/
abbrev Byte := BitVec 8

/-- A slot or channel index: the encoding's 4-bit fields (R72). -/
abbrev Index := BitVec 4

/-- `WIDTH`, the checksum width: 8 or 16 and nothing else (R5). -/
inductive Width where
  | w8
  | w16
  deriving DecidableEq, Repr

end Sys2Proof
end

