-- ==== Sys2Proof/Syntax.lean ====
section
/-! DEFINITION. The commands of the block: one constructor for each of the 25 rows of spec/opcode_table.json (spec/30_encoding.md R79). Operands have the widths of their encoding fields (R72 to R78). -/

namespace Sys2Proof

/-- One command word, decoded. -/
inductive Instr where
  /-- R182, format Z. -/
  | nop
  /-- R105, format SF: slot, W16, REFIN, REFOUT. -/
  | cfg (k : Index) (w16 refin refout : Bool)
  /-- R106, format SI. -/
  | poly (k : Index) (imm16 : Half)
  /-- R107, format SI. -/
  | init (k : Index) (imm16 : Half)
  /-- R108, format SI. -/
  | xout (k : Index) (imm16 : Half)
  /-- R109, format S. -/
  | build (k : Index)
  /-- R110, format S. -/
  | free (k : Index)
  /-- R140, format CS: channel, then the slot it is bound to. -/
  | bind (c k : Index)
  /-- R141, format C. -/
  | unbind (c : Index)
  /-- R142, format C. -/
  | reset (c : Index)
  /-- R143, format CD with n = 0. -/
  | upd0 (c : Index)
  /-- R143, format CD with n = 1. -/
  | upd1 (c : Index) (b0 : Byte)
  /-- R143, format CD with n = 2: `b0` is the first byte of the stream. -/
  | upd2 (c : Index) (b0 b1 : Byte)
  /-- R144, format C. -/
  | sum (c : Index)
  /-- R171, format R with sel = 0: `u` is a channel. -/
  | rdcrc (u : Index)
  /-- R172, format R with sel = 1: `u` is a slot. -/
  | rdtab (u : Index) (idx : Byte)
  /-- R173, format R with sel = 2: `u` is a channel. -/
  | rdinfo (u : Index)
  /-- R174, format R with sel = 3. -/
  | rdstat
  /-- R175, format R with sel = 4. -/
  | rderr
  /-- R176, format R with sel = 5: `u` is a slot. -/
  | rdscfg (u : Index)
  /-- R177, format R with sel = 6: `u` is a slot. -/
  | rdpoly (u : Index)
  /-- R178, format R with sel = 7: `u` is a slot. -/
  | rdinit (u : Index)
  /-- R179, format R with sel = 8: `u` is a slot. -/
  | rdxout (u : Index)
  /-- R180, format R with sel = 9: `u` is a channel. -/
  | rdchst (u : Index)
  /-- R181, format Z. -/
  | clrerr
  deriving DecidableEq, Repr

end Sys2Proof
end

