-- ==== Sys2Proof/Decode.lean ====
section
/-! DEFINITION. The command encoding of spec/30_encoding.md: the opcode map (R79), the decoder, total on 32-bit words (R84), and the encoder, from the formats of R73. -/

namespace Sys2Proof

/-- Why a word is `ILLEGAL` (R80 to R82). -/
inductive Illegal where
  /-- Opcode 0xE or 0xF (R81). -/
  | reservedOpcode
  /-- READ with a selector in 10 to 15 (R82). -/
  | reservedSelector
  /-- UPD with `n = 3` (R82). -/
  | reservedCount
  /-- A reserved bit that is not 0 (R80). -/
  | reservedBit
  deriving DecidableEq, Repr

/-- `op`, bits 31:28 (R71). -/
def opField (w : Word) : BitVec 4 := w.extractLsb' 28 4

/-- The unit field, bits 27:24 (R72): `s`, `c` or `sel`. -/
def unitField (w : Word) : Index := w.extractLsb' 24 4

/-- Bits 23:20 (R77, R78): `k` of BIND, `u` of READ. -/
def secondField (w : Word) : Index := w.extractLsb' 20 4

/-- `imm16 = w[15:0]` (R74). -/
def immField (w : Word) : Half := w.extractLsb' 0 16

/-- `b0 = w[7:0]`, the first byte of the stream (R76); `idx` of RDTAB (R77). -/
def lowByte (w : Word) : Byte := w.extractLsb' 0 8

/-- `b1 = w[15:8]`, the second byte of the stream (R76). -/
def highByte (w : Word) : Byte := w.extractLsb' 8 8

/-- `n = w[17:16]`, the byte count of UPD (R76). -/
def countField (w : Word) : BitVec 2 := w.extractLsb' 16 2

/-- The `len` bits of `w` from bit `lo` up are all 0: what R80 asks of a row's reserved bits. -/
def zeroBits (w : Word) (lo len : Nat) : Bool := w.extractLsb' lo len == 0#len

/-- The command, or ILLEGAL if a reserved bit is set (R80). -/
def ifReservedZero (ok : Bool) (i : Instr) : Except Illegal Instr :=
  if ok then .ok i else .error .reservedBit

/-- Opcode 0xA: the encodings of UPD (R76). With fewer than two bytes the unused byte fields are reserved. -/
def decodeUpd (w : Word) : Except Illegal Instr :=
  match countField w with
  | 0#2 => ifReservedZero (zeroBits w 18 6 && zeroBits w 0 16) (.upd0 (unitField w))
  | 1#2 => ifReservedZero (zeroBits w 18 6 && zeroBits w 8 8) (.upd1 (unitField w) (lowByte w))
  | 2#2 => ifReservedZero (zeroBits w 18 6) (.upd2 (unitField w) (lowByte w) (highByte w))
  | _ => .error .reservedCount

/-- Opcode 0xC: the READ group (R77), selected by bits 27:24. -/
def decodeRead (w : Word) : Except Illegal Instr :=
  match unitField w with
  | 0x0#4 => ifReservedZero (zeroBits w 0 20) (.rdcrc (secondField w))
  | 0x1#4 => ifReservedZero (zeroBits w 8 12) (.rdtab (secondField w) (lowByte w))
  | 0x2#4 => ifReservedZero (zeroBits w 0 20) (.rdinfo (secondField w))
  | 0x3#4 => ifReservedZero (zeroBits w 0 24) .rdstat
  | 0x4#4 => ifReservedZero (zeroBits w 0 24) .rderr
  | 0x5#4 => ifReservedZero (zeroBits w 0 20) (.rdscfg (secondField w))
  | 0x6#4 => ifReservedZero (zeroBits w 0 20) (.rdpoly (secondField w))
  | 0x7#4 => ifReservedZero (zeroBits w 0 20) (.rdinit (secondField w))
  | 0x8#4 => ifReservedZero (zeroBits w 0 20) (.rdxout (secondField w))
  | 0x9#4 => ifReservedZero (zeroBits w 0 20) (.rdchst (secondField w))
  | _ => .error .reservedSelector

/-- `Decode` (R84), field by field: the opcode selects the row, whose reserved bits must be 0. -/
def decode (w : Word) : Except Illegal Instr :=
  match opField w with
  | 0x0#4 => ifReservedZero (zeroBits w 0 28) .nop
  | 0x1#4 => ifReservedZero (zeroBits w 3 21) (.cfg (unitField w) (w.getLsbD 0) (w.getLsbD 1) (w.getLsbD 2))
  | 0x2#4 => ifReservedZero (zeroBits w 16 8) (.poly (unitField w) (immField w))
  | 0x3#4 => ifReservedZero (zeroBits w 16 8) (.init (unitField w) (immField w))
  | 0x4#4 => ifReservedZero (zeroBits w 16 8) (.xout (unitField w) (immField w))
  | 0x5#4 => ifReservedZero (zeroBits w 0 24) (.build (unitField w))
  | 0x6#4 => ifReservedZero (zeroBits w 0 24) (.free (unitField w))
  | 0x7#4 => ifReservedZero (zeroBits w 0 20) (.bind (unitField w) (secondField w))
  | 0x8#4 => ifReservedZero (zeroBits w 0 24) (.unbind (unitField w))
  | 0x9#4 => ifReservedZero (zeroBits w 0 24) (.reset (unitField w))
  | 0xA#4 => decodeUpd w
  | 0xB#4 => ifReservedZero (zeroBits w 0 24) (.sum (unitField w))
  | 0xC#4 => decodeRead w
  | 0xD#4 => ifReservedZero (zeroBits w 0 28) .clrerr
  | _ => .error .reservedOpcode

/-- The field value `v` at bits `lo` and up of a word (R73). -/
def fieldAt {n : Nat} (v : BitVec n) (lo : Nat) : Word := v.setWidth 32 <<< lo

/-- Formats Z, S and C (R73): the opcode and the unit field, every other bit 0. -/
def formatUnit (op unit : BitVec 4) : Word := fieldAt op 28 ||| fieldAt unit 24

/-- Format SF (R73, R75). -/
def formatSF (op : BitVec 4) (k : Index) (w16 refin refout : Bool) : Word :=
  formatUnit op k ||| fieldAt (BitVec.ofBool refout) 2 ||| fieldAt (BitVec.ofBool refin) 1 |||
    fieldAt (BitVec.ofBool w16) 0

/-- Format SI (R73, R74). -/
def formatSI (op : BitVec 4) (k : Index) (imm16 : Half) : Word := formatUnit op k ||| fieldAt imm16 0

/-- Format CS (R73, R78). -/
def formatCS (op : BitVec 4) (c k : Index) : Word := formatUnit op c ||| fieldAt k 20

/-- Format CD (R73, R76). -/
def formatCD (op : BitVec 4) (c : Index) (n : BitVec 2) (b1 b0 : Byte) : Word :=
  formatUnit op c ||| fieldAt n 16 ||| fieldAt b1 8 ||| fieldAt b0 0

/-- Format R (R73, R77): opcode 1100. -/
def formatR (sel : BitVec 4) (u : Index) (idx : Byte) : Word :=
  formatUnit 0xC#4 sel ||| fieldAt u 20 ||| fieldAt idx 0

/-- The word of a command, in its row's format and with its row's opcode (R73, R79). A command has exactly one word. -/
def encode : Instr → Word
  | .nop => formatUnit 0x0#4 0#4
  | .cfg k w16 refin refout => formatSF 0x1#4 k w16 refin refout
  | .poly k imm16 => formatSI 0x2#4 k imm16
  | .init k imm16 => formatSI 0x3#4 k imm16
  | .xout k imm16 => formatSI 0x4#4 k imm16
  | .build k => formatUnit 0x5#4 k
  | .free k => formatUnit 0x6#4 k
  | .bind c k => formatCS 0x7#4 c k
  | .unbind c => formatUnit 0x8#4 c
  | .reset c => formatUnit 0x9#4 c
  | .upd0 c => formatCD 0xA#4 c 0#2 0#8 0#8
  | .upd1 c b0 => formatCD 0xA#4 c 1#2 0#8 b0
  | .upd2 c b0 b1 => formatCD 0xA#4 c 2#2 b1 b0
  | .sum c => formatUnit 0xB#4 c
  | .rdcrc u => formatR 0x0#4 u 0#8
  | .rdtab u idx => formatR 0x1#4 u idx
  | .rdinfo u => formatR 0x2#4 u 0#8
  | .rdstat => formatR 0x3#4 0#4 0#8
  | .rderr => formatR 0x4#4 0#4 0#8
  | .rdscfg u => formatR 0x5#4 u 0#8
  | .rdpoly u => formatR 0x6#4 u 0#8
  | .rdinit u => formatR 0x7#4 u 0#8
  | .rdxout u => formatR 0x8#4 u 0#8
  | .rdchst u => formatR 0x9#4 u 0#8
  | .clrerr => formatUnit 0xD#4 0#4

/-- A row of the opcode map (R79): `w` encodes the row's command when `(w AND mask) = match`. -/
structure OpcodeRow where
  mnemonic : String
  matchBits : Word
  mask : Word
  deriving DecidableEq, Repr

/-- The rows of R79 with opcodes 0x0 to 0x9. -/
def opcodeRowsLow : List OpcodeRow := [
  ⟨"NOP", 0x00000000, 0xFFFFFFFF⟩,
  ⟨"CFG", 0x10000000, 0xF0FFFFF8⟩,
  ⟨"POLY", 0x20000000, 0xF0FF0000⟩,
  ⟨"INIT", 0x30000000, 0xF0FF0000⟩,
  ⟨"XOUT", 0x40000000, 0xF0FF0000⟩,
  ⟨"BUILD", 0x50000000, 0xF0FFFFFF⟩,
  ⟨"FREE", 0x60000000, 0xF0FFFFFF⟩,
  ⟨"BIND", 0x70000000, 0xF00FFFFF⟩,
  ⟨"UNBIND", 0x80000000, 0xF0FFFFFF⟩,
  ⟨"RESET", 0x90000000, 0xF0FFFFFF⟩]

/-- The rows of R79 with opcodes 0xA, 0xB and 0xD. -/
def opcodeRowsHigh : List OpcodeRow := [
  ⟨"UPD0", 0xA0000000, 0xF0FFFFFF⟩,
  ⟨"UPD1", 0xA0010000, 0xF0FFFF00⟩,
  ⟨"UPD2", 0xA0020000, 0xF0FF0000⟩,
  ⟨"SUM", 0xB0000000, 0xF0FFFFFF⟩,
  ⟨"CLRERR", 0xD0000000, 0xFFFFFFFF⟩]

/-- The rows of R79 with opcode 0xC, the READ group. -/
def opcodeRowsRead : List OpcodeRow := [
  ⟨"RDCRC", 0xC0000000, 0xFF0FFFFF⟩,
  ⟨"RDTAB", 0xC1000000, 0xFF0FFF00⟩,
  ⟨"RDINFO", 0xC2000000, 0xFF0FFFFF⟩,
  ⟨"RDSTAT", 0xC3000000, 0xFFFFFFFF⟩,
  ⟨"RDERR", 0xC4000000, 0xFFFFFFFF⟩,
  ⟨"RDSCFG", 0xC5000000, 0xFF0FFFFF⟩,
  ⟨"RDPOLY", 0xC6000000, 0xFF0FFFFF⟩,
  ⟨"RDINIT", 0xC7000000, 0xFF0FFFFF⟩,
  ⟨"RDXOUT", 0xC8000000, 0xFF0FFFFF⟩,
  ⟨"RDCHST", 0xC9000000, 0xFF0FFFFF⟩]

/-- The opcode map of R79, row for row. The decoder above does not read it; that the two agree is a statement. -/
def opcodeRows : List OpcodeRow := opcodeRowsLow ++ opcodeRowsHigh ++ opcodeRowsRead

/-- `w` encodes the row's command (R79). -/
def OpcodeRow.matchesWord (r : OpcodeRow) (w : Word) : Bool := w &&& r.mask == r.matchBits

/-- The row of a command, by its mnemonic in spec/opcode_table.json. -/
def mnemonicOf : Instr → String
  | .nop => "NOP"
  | .cfg _ _ _ _ => "CFG"
  | .poly _ _ => "POLY"
  | .init _ _ => "INIT"
  | .xout _ _ => "XOUT"
  | .build _ => "BUILD"
  | .free _ => "FREE"
  | .bind _ _ => "BIND"
  | .unbind _ => "UNBIND"
  | .reset _ => "RESET"
  | .upd0 _ => "UPD0"
  | .upd1 _ _ => "UPD1"
  | .upd2 _ _ _ => "UPD2"
  | .sum _ => "SUM"
  | .rdcrc _ => "RDCRC"
  | .rdtab _ _ => "RDTAB"
  | .rdinfo _ => "RDINFO"
  | .rdstat => "RDSTAT"
  | .rderr => "RDERR"
  | .rdscfg _ => "RDSCFG"
  | .rdpoly _ => "RDPOLY"
  | .rdinit _ => "RDINIT"
  | .rdxout _ => "RDXOUT"
  | .rdchst _ => "RDCHST"
  | .clrerr => "CLRERR"

/-- The command word whose `nbits` low bits are `w`'s and whose other bits are 0. A command is exactly one
32-bit word, moved whole (R57, R70), so bit n of the table's numbering is bit n of the word. -/
def tableWord (nbits w : Nat) : Word := BitVec.ofNat 32 (w % 2 ^ nbits)

/-- What the decoder reads from a word numbered as spec/opcode_table.json numbers it. There is one length,
32 bits (R70), so nothing longer is a command. -/
def decodeTableWord (nbits w : Nat) : Option Instr :=
  if nbits ≤ 32 then (decode (tableWord nbits w)).toOption else none

end Sys2Proof
end

