-- ==== Sys2Proof/Config.lean ====
section
/-! DEFINITION. The build and platform parameters of the block (spec/00_scope.md R6 to R8; spec/20_memory.md R54, R57). "The model takes it as an argument": a machine's state carries its Config, which no step changes (log 2). -/

namespace Sys2Proof

/-- `BUS_BYTE_ORDER` (R57 item 1): "a parameter that no rule reads". -/
inductive ByteOrder where
  | littleEndian
  | bigEndian
  deriving DecidableEq, Repr

/-- What an implementation or its platform fixes. -/
structure Config where
  /-- `NUM_TABLES`, the number of table slots (R6). -/
  numTables : Nat
  /-- `NUM_CHANNELS`, the number of channels (R7). -/
  numChannels : Nat
  /-- `CRCTA_BASE`, the base address of the register window (R54). -/
  base : Nat
  /-- `BUS_BYTE_ORDER` (R57). -/
  byteOrder : ByteOrder
  deriving DecidableEq, Repr

/-- The ranges of R6 and R7. The window is placed on a 4-byte boundary, or its registers could not be
accessed as the aligned words R56 asks for (DEDUCED, log 6). -/
abbrev Config.Valid (cfg : Config) : Prop :=
  (1 ≤ cfg.numTables ∧ cfg.numTables ≤ 16) ∧ (1 ≤ cfg.numChannels ∧ cfg.numChannels ≤ 16) ∧ cfg.base % 4 = 0

/-- The reference configuration of R8. The base address and the byte order are no rule's: DESIGN CHOICE, log 2. -/
def Config.reference : Config :=
  { numTables := 4, numChannels := 4, base := 0, byteOrder := .littleEndian }

/-- What an entry of table memory that no BUILD has written holds in `State.reset`: "unspecified" (R39, R53).
DESIGN CHOICE, log 1: zero; no command can observe it (R38). -/
def Config.powerOnEntry : Half := 0

end Sys2Proof
end

