-- ==== Sys2Proof/Machine/State.lean ====
section
/-! DEFINITION. The state of the block (spec/10_state.md R22, spec/20_memory.md R50), the host's side of it, the reasons a step can stop, and the state after reset (spec/10_state.md R39, spec/70_reset_and_hazards.md R230, R231). -/

namespace Sys2Proof.Machine

/-- A slot's table memory `TAB[s]`: 256 entries of 16 bits, indexed 0 to 255 (R50). -/
abbrev Table := Vector Half 256

/-- `SCFG[s]`, the slot configuration register: bits 0, 1 and 2 (R24). -/
structure Scfg where
  w16 : Bool
  refin : Bool
  refout : Bool
  deriving DecidableEq, Repr

/-- A table slot: one Parameter Set, its VALID bit and its table memory (R23). -/
structure Slot where
  scfg : Scfg
  poly : Half
  init : Half
  xout : Half
  valid : Bool
  tab : Table
  deriving DecidableEq, Repr

/-- A channel: one Digest Engine (R30 to R32). -/
structure Channel where
  bound : Bool
  tsel : Index
  crc : Half
  deriving DecidableEq, Repr

/-- `STATUS` by its fields (R34). Its other bits are reserved and read as 0: `Status.word` supplies them (log 7). -/
structure Status where
  err : Bool
  multi : Bool
  errcode : BitVec 4
  deriving DecidableEq, Repr

/-- The errors a command can raise (spec/60_exceptions.md R201). -/
inductive ErrorCode where
  | illegal
  | badChannel
  | badSlot
  | slotLocked
  | slotEmpty
  | slotInUse
  | paramRange
  | unbound
  deriving DecidableEq, Repr

/-- One access of a bus master to the platform's addresses: where, how many bits wide, and the data of a write. -/
inductive BusAccess where
  | write (addr bits : Nat) (data : Word)
  | read (addr bits : Nat)
  deriving DecidableEq, Repr

/-- What the outside world does to the block: a bus access of a host (R55), or block reset by the platform (R230). -/
inductive HostInput where
  | access (a : BusAccess)
  | blockReset
  deriving DecidableEq, Repr

/-- An access that was performed, with the data it returned if it was a read. -/
structure BusEvent where
  access : BusAccess
  data : Option Word
  deriving DecidableEq, Repr

/-- The block, its configuration, and the host's side of it.
`slots` and `channels` have an element for each value of a 4-bit index; the first NUM_TABLES and NUM_CHANNELS exist
(log 2), and no command reads or writes another. -/
structure State where
  /-- Build and platform parameters: "configuration, not state" (R22); no step changes them. -/
  cfg : Config
  slots : Vector Slot 16
  channels : Vector Channel 16
  /-- `RES` (R33). -/
  res : Word
  /-- `STATUS` (R34). -/
  status : Status
  /-- `ERRCMD` (R35). -/
  errcmd : Word
  /-- The model's own (log 3): what the outside world does next, first one first. -/
  pending : List HostInput
  /-- The command index `k` the model keeps (R21). -/
  index : Nat
  /-- The model's own (log 3): the accesses performed since reset, oldest first (R231). -/
  history : List BusEvent
  deriving DecidableEq, Repr

/-- The block has no stopping fault: an error is recorded and the block "keeps accepting and executing commands"
(R203, R206, R207). So nothing raises one, and there is none. -/
inductive Fault where
  deriving DecidableEq, Repr

/-- Why the model has no transition. -/
inductive Refusal where
  /-- `exec`'s arm of an instruction that has no meaning yet. Safe: nothing can be proved of it. -/
  | notModelled (mnemonic : String)
  /-- `Machine.hostAccess`: an access narrower or wider than 32 bits, which R55 says the model refuses. Safe. -/
  | accessWidth
  /-- `Machine.hostAccess`: an access not aligned to 4 bytes, which R55 says the model refuses. Safe. -/
  | accessAlignment
  /-- `Machine.hostAccess`: an access at another offset than 0x0 and 0x4, which R55 says the model refuses, or below
  the window. Safe. -/
  | accessOffset
  deriving DecidableEq, Repr

/-- How a step or a command ends. -/
abbrev Result := Host.Outcome State Fault Refusal

/-- A slot after reset: empty, width 8, no reflection, every parameter 0 (R39). Its table memory is unspecified (log 1). -/
def Slot.reset : Slot :=
  { scfg := { w16 := false, refin := false, refout := false }, poly := 0, init := 0, xout := 0, valid := false,
    tab := Vector.replicate 256 Config.powerOnEntry }

/-- A channel after reset: unbound (R39). -/
def Channel.reset : Channel := { bound := false, tsel := 0, crc := 0 }

/-- STATUS after reset and after CLRERR (R34, R181). -/
def Status.clear : Status := { err := false, multi := false, errcode := 0 }

/-- A block of configuration `cfg` right after power-on reset (R39, R230, R231): no access pending, command index 0,
empty history. -/
def State.resetFor (cfg : Config) : State :=
  { cfg := cfg, slots := Vector.replicate 16 Slot.reset, channels := Vector.replicate 16 Channel.reset,
    res := 0, status := Status.clear, errcmd := 0, pending := [], index := 0, history := [] }

/-- The reference configuration (R8) right after reset. -/
def State.reset : State := State.resetFor Config.reference

end Sys2Proof.Machine
end

