-- ==== Sys2Proof/Machine/Flags.lean ====
section
/-! DEFINITION. STATUS, the block's only flags (spec/10_state.md R34, R37): the error codes (spec/60_exceptions.md R201), what recording an error does to it (R203), and the word RDSTAT reads. -/

namespace Sys2Proof.Machine

/-- The value written to `STATUS.ERRCODE` (R201). -/
def ErrorCode.code : ErrorCode → BitVec 4
  | .illegal => 1
  | .badChannel => 2
  | .badSlot => 3
  | .slotLocked => 4
  | .slotEmpty => 5
  | .slotInUse => 6
  | .paramRange => 7
  | .unbound => 8

/-- STATUS after an error (R203): the first sets ERR and ERRCODE, a later one MULTI. -/
def Status.record (st : Status) (e : ErrorCode) : Status :=
  if st.err then { st with multi := true } else { st with err := true, errcode := e.code }

/-- The 32 bits of STATUS (R34): ERRCODE in 7:4, MULTI in 1, ERR in 0, every other bit 0. -/
def Status.word (st : Status) : Word :=
  (st.errcode ++ 0#2 ++ BitVec.ofBool st.multi ++ BitVec.ofBool st.err).setWidth 32

end Sys2Proof.Machine
end

