-- ==== Sys2Proof/Machine/Ops.lean ====
section
/-! DEFINITION. The shared operations: bit operations (spec/00_scope.md R11, R12), access to slots, channels and table memory (R13, R14), taking an error and clearing it (spec/60_exceptions.md R203, R207), the table function (spec/40_table_generator.md R101, R103) and the width-generic functions of the accumulator (spec/41_accumulator.md R132 to R136). -/

namespace Sys2Proof.Machine

/-- `w` as a number of bits. -/
def Width.bits : Width → Nat
  | .w8 => 8
  | .w16 => 16

/-- `mask_w(v) = v AND (2^w - 1)` (R11). -/
def mask (w : Width) (v : Half) : Half := v &&& BitVec.ofNat 16 (2 ^ Width.bits w - 1)

/-- `v < 2^w`. -/
def fits (w : Width) (v : Half) : Bool := decide (v.toNat < 2 ^ Width.bits w)

/-- `reflect_w(v)`, the bit reversal over `w` bits (R12). It is defined for `v < 2^w`; the bits above are not read. -/
def reflect : Width → Half → Half
  | .w8, v => (v.setWidth 8).reverse.setWidth 16
  | .w16, v => v.reverse

/-- `reflect_8` of a byte (R12). -/
def reflectByte (b : Byte) : Byte := b.reverse

/-! ## Slots, channels, table memory -/

/-- The registers and table of slot `k`. -/
def State.slot (s : State) (k : Index) : Slot := s.slots[k.toNat]'k.isLt

/-- The registers of channel `c`. -/
def State.channel (s : State) (c : Index) : Channel := s.channels[c.toNat]'c.isLt

/-- The state with slot `k` replaced. -/
def State.setSlot (s : State) (k : Index) (v : Slot) : State := { s with slots := s.slots.set k.toNat v k.isLt }

/-- The state with channel `c` replaced. -/
def State.setChannel (s : State) (c : Index) (v : Channel) : State :=
  { s with channels := s.channels.set c.toNat v c.isLt }

/-- `RES <- v` (R33). -/
def State.setRes (s : State) (v : Word) : State := { s with res := v }

/-- `WIDTH(s)` is 16 when `SCFG[s].W16 = 1`, else 8 (R24). -/
def Slot.width (sl : Slot) : Width := if sl.scfg.w16 then .w16 else .w8

/-- Entry `i` of a table (R50). -/
def entryOf (t : Table) (i : Byte) : Half := t[i.toNat]'i.isLt

/-- `TabRead(s, i)` (R14, R51). -/
def Slot.tabRead (sl : Slot) (i : Byte) : Half := entryOf sl.tab i

/-- `USERS(s)`, the number of channels bound to slot `k`, counted over the channels the block has (R36). -/
def State.users (s : State) (k : Index) : Nat :=
  (List.finRange 16).countP (fun c =>
    decide (c.val < s.cfg.numChannels) && s.channels[c].bound && decide (s.channels[c].tsel = k))

/-! ## Errors -/

/-- `RecordError(code, w)` (R203): "exactly this and nothing else". -/
def State.recordError (s : State) (e : ErrorCode) (w : Word) : State :=
  { s with status := s.status.record e, errcmd := if s.status.err then s.errcmd else w }

/-- `raise Error(code)` (R15, R203, R205): the command of word `w` ends, with no effect but the error recording. -/
def raise (e : ErrorCode) (w : Word) (s : State) : Result := .next (s.recordError e w)

/-- The way back to `ERR = 0` (R181, R207): "it restores nothing else". -/
def State.clearErrors (s : State) : State := { s with status := Status.clear, errcmd := 0 }

/-! ## The table generator -/

/-- `n` times `f`. -/
def repeatN {α : Type} (f : α → α) : Nat → α → α
  | 0, a => a
  | n + 1, a => repeatN f n (f a)

/-- One most-significant-bit-first division step: step 2 of R101. -/
def divStep (w : Width) (poly r : Half) : Half :=
  if r.getLsbD (Width.bits w - 1) then mask w ((r <<< 1) ^^^ poly) else mask w (r <<< 1)

/-- Step 1 of R101: the byte placed in the top byte of a `w`-bit register. -/
def placeByte (w : Width) (refin : Bool) (i : Byte) : Half :=
  if refin then reflect w (i.setWidth 16) else i.setWidth 16 <<< (Width.bits w - 8)

/-- Entry `i` of `GenTable(w, poly, refin)` (R101). -/
def genEntry (w : Width) (poly : Half) (refin : Bool) (i : Byte) : Half :=
  let r := repeatN (divStep w poly) 8 (placeByte w refin i)
  if refin then reflect w r else r

/-- `GenTable(w, poly, refin)` (R100, R101). -/
def genTable (w : Width) (poly : Half) (refin : Bool) : Table :=
  Vector.ofFn (fun i : Fin 256 => genEntry w poly refin (BitVec.ofNat 8 i.val))

/-- `InRange(s)`, the bit-width precondition (R103). -/
def Slot.inRange (sl : Slot) : Bool := fits sl.width sl.poly && fits sl.width sl.init && fits sl.width sl.xout

/-- The table BUILD computes from the slot's Parameter Set (R109). -/
def Slot.generated (sl : Slot) : Table := genTable sl.width sl.poly sl.scfg.refin

/-! ## The accumulator -/

/-- `InitReg(s)`, the seed of a channel bound to the slot (R132). -/
def Slot.initReg (sl : Slot) : Half := if sl.scfg.refin then reflect sl.width sl.init else sl.init

/-- `Fold(s, v, b)`, one byte into a register value (R134). -/
def Slot.fold (sl : Slot) (v : Half) (b : Byte) : Half :=
  if sl.scfg.refin then
    sl.tabRead ((v ^^^ b.setWidth 16).setWidth 8) ^^^ (v >>> 8)
  else
    mask sl.width (sl.tabRead (((v >>> (Width.bits sl.width - 8)) ^^^ b.setWidth 16).setWidth 8) ^^^ (v <<< 8))

/-- `FoldSeq(s, v, d)`, a byte sequence in stream order (R135). -/
def Slot.foldSeq (sl : Slot) : Half → List Byte → Half
  | v, [] => v
  | v, b :: d => sl.foldSeq (sl.fold v b) d

/-- `Final(s, v)` (R136): undo the register convention, reflect the output, then the final XOR. -/
def Slot.final (sl : Slot) (v : Half) : Half :=
  let canon := if sl.scfg.refin then reflect sl.width v else v
  let out := if sl.scfg.refout then reflect sl.width canon else canon
  mask sl.width (out ^^^ sl.xout)

end Sys2Proof.Machine
end

