-- ==== Sys2Proof/Machine/Operands.lean ====
section
/-! DEFINITION. The operand forms: a slot index and a channel index, with the checks of spec/60_exceptions.md R204 in its order (the index range, then the state of the slot or channel). Each form hands the command the registers its operand names, or raises the error on word `w`. -/

namespace Sys2Proof.Machine

/-- A slot operand: `BAD_SLOT` unless it is below NUM_TABLES (R88, R201). -/
def withSlot (k : Index) (w : Word) (s : State) (f : Slot → Result) : Result :=
  if k.toNat < s.cfg.numTables then f (s.slot k) else raise .badSlot w s

/-- A slot to be written: `SLOT_LOCKED` if it is valid (R105 to R109). -/
def withEmptySlot (k : Index) (w : Word) (s : State) (f : Slot → Result) : Result :=
  withSlot k w s (fun sl => if sl.valid then raise .slotLocked w s else f sl)

/-- A slot whose table is used: `SLOT_EMPTY` unless it is valid (R140, R172). -/
def withValidSlot (k : Index) (w : Word) (s : State) (f : Slot → Result) : Result :=
  withSlot k w s (fun sl => if sl.valid then f sl else raise .slotEmpty w s)

/-- A channel operand: `BAD_CHANNEL` unless it is below NUM_CHANNELS (R88, R201). -/
def withChannel (c : Index) (w : Word) (s : State) (f : Channel → Result) : Result :=
  if c.toNat < s.cfg.numChannels then f (s.channel c) else raise .badChannel w s

/-- A channel with its Digest Engine and the slot it references: `UNBOUND` if there is none (R131). -/
def withEngine (c : Index) (w : Word) (s : State) (f : Channel → Slot → Result) : Result :=
  withChannel c w s (fun ch => if ch.bound then f ch (s.slot ch.tsel) else raise .unbound w s)

/-- What every READ does on success: `RES` and nothing else (R170). -/
def readBack (s : State) (v : Word) : Result := .next (s.setRes v)

end Sys2Proof.Machine
end

