-- ==== Sys2Proof/Machine/Accumulator.lean ====
section
/-! DEFINITION. The accumulator (Digest Engine) family (spec/41_accumulator.md): BIND, UNBIND, RESET, UPD, SUM. -/

namespace Sys2Proof.Machine

/-- R140: the channel is checked before the slot (R204); a bound channel is rebound. -/
def execBind (c k : Index) (s : State) : Result :=
  withChannel c (encode (.bind c k)) s (fun _ =>
    withValidSlot k (encode (.bind c k)) s (fun sl =>
      .next (s.setChannel c { bound := true, tsel := k, crc := sl.initReg })))

/-- R141: of an unbound channel too. -/
def execUnbind (c : Index) (s : State) : Result :=
  withChannel c (encode (.unbind c)) s (fun _ => .next (s.setChannel c { bound := false, tsel := 0, crc := 0 }))

/-- R142. -/
def execReset (c : Index) (s : State) : Result :=
  withEngine c (encode (.reset c)) s (fun ch sl => .next (s.setChannel c { ch with crc := sl.initReg }))

/-- The common part of UPD (R143): the bytes `d`, in order, folded into the channel's register. -/
def update (c : Index) (w : Word) (d : List Byte) (s : State) : Result :=
  withEngine c w s (fun ch sl => .next (s.setChannel c { ch with crc := sl.foldSeq ch.crc d }))

/-- R143 with `n = 0`: a no-op on a bound channel. -/
def execUpd0 (c : Index) (s : State) : Result := update c (encode (.upd0 c)) [] s

/-- R143 with `n = 1`. -/
def execUpd1 (c : Index) (b0 : Byte) (s : State) : Result := update c (encode (.upd1 c b0)) [b0] s

/-- R143 with `n = 2`: `b0` before `b1`. -/
def execUpd2 (c : Index) (b0 b1 : Byte) (s : State) : Result := update c (encode (.upd2 c b0 b1)) [b0, b1] s

/-- R144: the register is not changed. -/
def execSum (c : Index) (s : State) : Result :=
  withEngine c (encode (.sum c)) s (fun ch sl => .next (s.setRes ((sl.final ch.crc).setWidth 32)))

end Sys2Proof.Machine
end

