-- ==== Sys2Proof/Machine/ReadBack.lean ====
section
/-! DEFINITION. The read-back and control family (spec/42_readback_control.md): the READ commands, CLRERR and NOP. -/

namespace Sys2Proof.Machine

/-- R171: the raw register, in the channel's convention. -/
def execRdcrc (u : Index) (s : State) : Result :=
  withEngine u (encode (.rdcrc u)) s (fun ch _ => readBack s (ch.crc.setWidth 32))

/-- R172. -/
def execRdtab (u : Index) (idx : Byte) (s : State) : Result :=
  withValidSlot u (encode (.rdtab u idx)) s (fun sl => readBack s ((sl.tabRead idx).setWidth 32))

/-- R173: blockSize 1 in bits 15:8, size `WIDTH / 8` in bits 7:0. -/
def execRdinfo (u : Index) (s : State) : Result :=
  withEngine u (encode (.rdinfo u)) s (fun _ sl =>
    readBack s ((0x01#8 ++ BitVec.ofNat 8 (Width.bits sl.width / 8)).setWidth 32))

/-- R174. -/
def execRdstat (s : State) : Result := readBack s s.status.word

/-- R175. -/
def execRderr (s : State) : Result := readBack s s.errcmd

/-- R176: VALID, REFOUT, REFIN, W16 in bits 3 to 0. -/
def execRdscfg (u : Index) (s : State) : Result :=
  withSlot u (encode (.rdscfg u)) s (fun sl =>
    readBack s ((BitVec.ofBool sl.valid ++ BitVec.ofBool sl.scfg.refout ++ BitVec.ofBool sl.scfg.refin
      ++ BitVec.ofBool sl.scfg.w16).setWidth 32))

/-- R177: all 16 stored bits. -/
def execRdpoly (u : Index) (s : State) : Result :=
  withSlot u (encode (.rdpoly u)) s (fun sl => readBack s (sl.poly.setWidth 32))

/-- R178: the value as written. -/
def execRdinit (u : Index) (s : State) : Result :=
  withSlot u (encode (.rdinit u)) s (fun sl => readBack s (sl.init.setWidth 32))

/-- R179. -/
def execRdxout (u : Index) (s : State) : Result :=
  withSlot u (encode (.rdxout u)) s (fun sl => readBack s (sl.xout.setWidth 32))

/-- R180: TSEL in bits 7:4, BOUND in bit 0. -/
def execRdchst (u : Index) (s : State) : Result :=
  withChannel u (encode (.rdchst u)) s (fun ch =>
    readBack s ((ch.tsel ++ 0#3 ++ BitVec.ofBool ch.bound).setWidth 32))

/-- R181. -/
def execClrerr (s : State) : Result := .next s.clearErrors

/-- R182: no effect. -/
def execNop (s : State) : Result := .next s

end Sys2Proof.Machine
end

