-- ==== Sys2Proof/Machine/TableGenerator.lean ====
section
/-! DEFINITION. The table generator family (spec/40_table_generator.md): CFG, POLY, INIT, XOUT, BUILD, FREE. -/

namespace Sys2Proof.Machine

/-- R105. -/
def execCfg (k : Index) (w16 refin refout : Bool) (s : State) : Result :=
  withEmptySlot k (encode (.cfg k w16 refin refout)) s (fun sl =>
    .next (s.setSlot k { sl with scfg := { w16 := w16, refin := refin, refout := refout } }))

/-- R106: all 16 bits are stored, whatever the width (R25). -/
def execPoly (k : Index) (imm16 : Half) (s : State) : Result :=
  withEmptySlot k (encode (.poly k imm16)) s (fun sl => .next (s.setSlot k { sl with poly := imm16 }))

/-- R107. -/
def execInit (k : Index) (imm16 : Half) (s : State) : Result :=
  withEmptySlot k (encode (.init k imm16)) s (fun sl => .next (s.setSlot k { sl with init := imm16 }))

/-- R108. -/
def execXout (k : Index) (imm16 : Half) (s : State) : Result :=
  withEmptySlot k (encode (.xout k imm16)) s (fun sl => .next (s.setSlot k { sl with xout := imm16 }))

/-- R109: all 256 entries are written and the slot becomes valid, in one step. -/
def execBuild (k : Index) (s : State) : Result :=
  withEmptySlot k (encode (.build k)) s (fun sl =>
    if sl.inRange then .next (s.setSlot k { sl with tab := sl.generated, valid := true })
    else raise .paramRange (encode (.build k)) s)

/-- R110: a no-op on an empty slot; the parameters are kept, and the table memory is not cleared (R53). -/
def execFree (k : Index) (s : State) : Result :=
  withSlot k (encode (.free k)) s (fun sl =>
    if sl.valid then
      if s.users k = 0 then .next (s.setSlot k { sl with valid := false })
      else raise .slotInUse (encode (.free k)) s
    else .next s)

end Sys2Proof.Machine
end

