-- ==== Sys2Proof/Machine/Dispatch.lean ====
section
/-! DEFINITION. One arm per constructor of Instr (spec/30_encoding.md R84, "perform the rule r names"). -/

namespace Sys2Proof.Machine

def exec (i : Instr) (s : State) : Host.Outcome State Fault Refusal :=
  match i with
  | .nop => Sys2Proof.Machine.execNop s
  | .cfg k w16 refin refout => Sys2Proof.Machine.execCfg k w16 refin refout s
  | .poly k imm16 => Sys2Proof.Machine.execPoly k imm16 s
  | .init k imm16 => Sys2Proof.Machine.execInit k imm16 s
  | .xout k imm16 => Sys2Proof.Machine.execXout k imm16 s
  | .build k => Sys2Proof.Machine.execBuild k s
  | .free k => Sys2Proof.Machine.execFree k s
  | .bind c k => Sys2Proof.Machine.execBind c k s
  | .unbind c => Sys2Proof.Machine.execUnbind c s
  | .reset c => Sys2Proof.Machine.execReset c s
  | .upd0 c => Sys2Proof.Machine.execUpd0 c s
  | .upd1 c b0 => Sys2Proof.Machine.execUpd1 c b0 s
  | .upd2 c b0 b1 => Sys2Proof.Machine.execUpd2 c b0 b1 s
  | .sum c => Sys2Proof.Machine.execSum c s
  | .rdcrc u => Sys2Proof.Machine.execRdcrc u s
  | .rdtab u idx => Sys2Proof.Machine.execRdtab u idx s
  | .rdinfo u => Sys2Proof.Machine.execRdinfo u s
  | .rdstat => Sys2Proof.Machine.execRdstat s
  | .rderr => Sys2Proof.Machine.execRderr s
  | .rdscfg u => Sys2Proof.Machine.execRdscfg u s
  | .rdpoly u => Sys2Proof.Machine.execRdpoly u s
  | .rdinit u => Sys2Proof.Machine.execRdinit u s
  | .rdxout u => Sys2Proof.Machine.execRdxout u s
  | .rdchst u => Sys2Proof.Machine.execRdchst u s
  | .clrerr => Sys2Proof.Machine.execClrerr s

end Sys2Proof.Machine
end

