-- ==== Sys2Proof/Machine/Bus.lean ====
section
/-! DEFINITION. The host bus interface (spec/20_memory.md R54, R55) and block reset (spec/70_reset_and_hazards.md R230): what each input of the outside world does. -/

namespace Sys2Proof.Machine

/-- `Execute(w)` (R84): a word that matches no row raises ILLEGAL and has no other effect. -/
def execute (w : Word) (s : State) : Result :=
  match decode w with
  | .ok i => exec i s
  | .error _ => raise .illegal w s

/-- The two registers of the bus window (R54). -/
inductive BusRegister where
  | cmd
  | res
  deriving DecidableEq, Repr

/-- The register an access reaches. Offsets are relative to CRCTA_BASE (R54); anything but an aligned 32-bit access at
offset 0x0 or 0x4 is refused (R55). -/
def busRegister (cfg : Config) (addr bits : Nat) : Except Refusal BusRegister :=
  if bits ≠ 32 then .error .accessWidth
  else if addr < cfg.base then .error .accessOffset
  else if (addr - cfg.base) % 4 ≠ 0 then .error .accessAlignment
  else if addr - cfg.base = 0 then .ok .cmd
  else if addr - cfg.base = 4 then .ok .res
  else .error .accessOffset

/-- The access is performed: the command index advances by exactly 1 (R21) and the history grows by it. -/
def State.record (s : State) (a : BusAccess) (data : Option Word) : State :=
  { s with index := s.index + 1, history := s.history ++ [{ access := a, data := data }] }

/-- A bus access (R55): a write of CMD executes the word; a read of RES returns it; a read of CMD returns 0 and a write
of RES is ignored. DESIGN CHOICE (log 12): the last two, which are neither of R55's two host actions, count in R21's
command index and in the history all the same. -/
def hostAccess (a : BusAccess) (s : State) : Result :=
  match a with
  | .write addr bits data =>
    match busRegister s.cfg addr bits with
    | .ok .cmd => execute data (s.record a none)
    | .ok .res => .next (s.record a none)
    | .error r => .refused r
  | .read addr bits =>
    match busRegister s.cfg addr bits with
    | .ok .cmd => .next (s.record a (some 0))
    | .ok .res => .next (s.record a (some s.res))
    | .error r => .refused r

/-- A slot after block reset during a run: its registers as R39 says; its table memory, which R230 leaves unspecified,
is left as it is (log 5). -/
def Slot.blockReset (sl : Slot) : Slot := { Slot.reset with tab := sl.tab }

/-- Block reset (R230, R231). The accesses the host has still to make are the host's and remain. -/
def State.blockReset (s : State) : State :=
  { s with slots := s.slots.map Slot.blockReset, channels := Vector.replicate 16 Channel.reset,
           res := 0, status := Status.clear, errcmd := 0, index := 0, history := [] }

/-- What one input of the outside world does to the block. -/
def performInput (x : HostInput) (s : State) : Result :=
  match x with
  | .access a => hostAccess a s
  | .blockReset => .next s.blockReset

/-- One step: the first input pending, taken from the list and performed (R16, R59). With none pending the block "holds
its state unchanged" (spec/60_exceptions.md R216; log 4). -/
def stepInput (s : State) : Result :=
  match s.pending with
  | [] => .next s
  | x :: rest => performInput x { s with pending := rest }

/-- The bus write by which the host gives the block the command word `w` (R55). -/
def State.cmdWrite (s : State) (w : Word) : BusAccess := .write s.cfg.base 32 w

/-- The bus read by which the host reads RES (R54, R55). -/
def State.resRead (s : State) : BusAccess := .read (s.cfg.base + 4) 32

end Sys2Proof.Machine
end

