-- ==== Sys2Proof/Machine/Step.lean ====
section
/-! DEFINITION. The step: the block performs the next host action (spec/00_scope.md R16, spec/20_memory.md R58). -/

namespace Sys2Proof.Machine

/-- One step of the machine. -/
def step (s : State) : Host.Outcome State Fault Refusal := stepInput s

/-- `s` where the host's next action is the bus write of the command word `w` to CMD. The block fetches nothing (R21):
a program is the host's, given from outside, action by action. -/
def State.withFetchWord (s : State) (nbits w : Nat) : State :=
  { s with pending := .access (s.cmdWrite (tableWord nbits w)) :: s.pending }

end Sys2Proof.Machine
end

