-- ==== Sys2Proof/Machine/HostFns.lean ====
section
/-! DEFINITION. The host-side functions of the incremental-hash contract (spec/41_accumulator.md R150 to R153) over the two host actions of spec/20_memory.md R55, and the expansion of FEED, DEFTAB and SUMRD (spec/30_encoding.md R86). -/

namespace Sys2Proof.Machine

/-- The result of `r` handed to `f`, if there is one. -/
def andThen {α β : Type} (r : Host.Outcome α Fault Refusal) (f : α → Host.Outcome β Fault Refusal) :
    Host.Outcome β Fault Refusal :=
  match r with
  | .next a => f a
  | .fault x => .fault x
  | .refused x => .refused x

/-- `HostWriteCmd(w)` (R55). -/
def hostWriteCmd (w : Word) (s : State) : Result := hostAccess (s.cmdWrite w) s

/-- `HostReadRes()` (R55): the value of RES, and the state after the access. -/
def hostReadRes (s : State) : Host.Outcome (Word × State) Fault Refusal :=
  andThen (hostAccess s.resRead s) (fun t => .next (s.res, t))

/-- The host issues the commands one after the other. -/
def issue : List Instr → State → Result
  | [], s => .next s
  | i :: rest, s => andThen (hostWriteCmd (encode i) s) (issue rest)

/-- The UPD commands of FEED for at least one byte: two bytes each, the last one alone if the count is odd (R86 item 1). -/
def feedPairs (c : Index) : List Byte → List Instr
  | [] => []
  | [b0] => [.upd1 c b0]
  | b0 :: b1 :: rest => .upd2 c b0 b1 :: feedPairs c rest

/-- `FEED c, d0, d1, ...` (R86 item 1). -/
def feed (c : Index) (d : List Byte) : List Instr :=
  match d with
  | [] => [.upd0 c]
  | b :: rest => feedPairs c (b :: rest)

/-- `DEFTAB s, W, poly, init, RI, RO, xout` (R86 item 2). -/
def deftab (k : Index) (w16 : Bool) (poly init : Half) (refin refout : Bool) (xout : Half) : List Instr :=
  [.cfg k w16 refin refout, .poly k poly, .init k init, .xout k xout, .build k]

/-- The error part of `write` (R150): `none` when STATUS shows no new error after the commands, else what it shows. -/
def newError (before after : Status) : Option Status := if after = before then none else some after

/-- `write(c, d) -> (count, error)` (R150): the count is always the number of bytes given. -/
def hostWrite (c : Index) (d : List Byte) (s : State) : Host.Outcome ((Nat × Option Status) × State) Fault Refusal :=
  andThen (issue (feed c d) s) (fun t => .next ((d.length, newError s.status t.status), t))

/-- `Serialize(w, v)` (R151): big-endian, with the full 8 bits of the low byte. -/
def serialize (w : Width) (v : Word) : List Byte :=
  match w with
  | .w8 => [v.extractLsb' 0 8]
  | .w16 => [v.extractLsb' 8 8, v.extractLsb' 0 8]

/-- The width of the slot channel `c` references, `WIDTH(TSEL[c])`; of a channel the block does not have, the width of
the slot that State's element for it names: DESIGN CHOICE, log 13. -/
def State.channelWidth (s : State) (c : Index) : Width := (s.slot (s.channel c).tsel).width

/-- A command, then the host's read of RES; SUMRD (R86 item 3) is this of SUM. -/
def issueAndRead (i : Instr) (s : State) : Host.Outcome (Word × State) Fault Refusal :=
  andThen (hostWriteCmd (encode i) s) hostReadRes

/-- `sum(c, buffer)` (R151). What it returns when SUM is rejected is open: the bytes of RES as it then stands, as many
as `channelWidth` says: DESIGN CHOICE, log 13. -/
def hostSum (c : Index) (buffer : List Byte) (s : State) : Host.Outcome (List Byte × State) Fault Refusal :=
  andThen (issueAndRead (.sum c) s) (fun r => .next (buffer ++ serialize (s.channelWidth c) r.1, r.2))

/-- `sum8(c)` (R152): `RES[7:0]`. R152 gives it for width 8; on a channel of width 16 it returns the same bits: DESIGN
CHOICE, log 14. -/
def hostSum8 (c : Index) (s : State) : Host.Outcome (Byte × State) Fault Refusal :=
  andThen (issueAndRead (.sum c) s) (fun r => .next (r.1.extractLsb' 0 8, r.2))

/-- `sum16(c)` (R152): `RES[15:0]`. R152 gives it for width 16; on a channel of width 8 it returns the same bits, the
upper byte 0: DESIGN CHOICE, log 14. -/
def hostSum16 (c : Index) (s : State) : Host.Outcome (Half × State) Fault Refusal :=
  andThen (issueAndRead (.sum c) s) (fun r => .next (r.1.extractLsb' 0 16, r.2))

/-- `size(c)` (R153): `RES[7:0]` after RDINFO. -/
def hostSize (c : Index) (s : State) : Host.Outcome (Byte × State) Fault Refusal :=
  andThen (issueAndRead (.rdinfo c) s) (fun r => .next (r.1.extractLsb' 0 8, r.2))

/-- `blockSize(c)` (R153): `RES[15:8]` after RDINFO. -/
def hostBlockSize (c : Index) (s : State) : Host.Outcome (Byte × State) Fault Refusal :=
  andThen (issueAndRead (.rdinfo c) s) (fun r => .next (r.1.extractLsb' 8 8, r.2))

/-- `reset(c)` is the command RESET (R153). -/
def hostReset (c : Index) (s : State) : Result := hostWriteCmd (encode (.reset c)) s

/-- `Canon(s, d)`, the bit-serial CRC (R137): one bit `b[k]`, most significant first. -/
def canonBit (w : Width) (poly : Half) (r : Half) (b : Bool) : Half :=
  mask w (r <<< 1) ^^^ (if b ^^ r.getLsbD (Width.bits w - 1) then poly else 0)

/-- One byte of `Canon` (R137): its bits from 7 down to 0, reversed first when `REFIN = 1`. -/
def Slot.canonByte (sl : Slot) (r : Half) (d : Byte) : Half :=
  let b := if sl.scfg.refin then reflectByte d else d
  [7, 6, 5, 4, 3, 2, 1, 0].foldl (fun r n => canonBit sl.width sl.poly r (b.getLsbD n)) r

/-- `Canon(s, d)` (R137): the seed is INIT, in canonical order. -/
def Slot.canon (sl : Slot) (d : List Byte) : Half := d.foldl sl.canonByte sl.init

end Sys2Proof.Machine
end

