-- ==== Sys2Proof/Machine/Asm.lean ====
section
/-! DEFINITION. The assembler: the syntax of spec/30_encoding.md R85, "one command per line, mnemonic then comma-separated operands, numbers in decimal or 0x hexadecimal, ; starts a comment", and the pseudo-instructions of R86. A line assembles to the host's bus accesses: a write of CMD for each command word, a read of RES for HRD. -/

namespace Sys2Proof.Machine

/-- A line's meaning: each row of R85's table, HRD, and the pseudo-instructions of R86. Operands are the numbers written. -/
inductive AsmLine where
  | nop
  | cfg (s w ri ro : Nat)
  | poly (s imm16 : Nat)
  | init (s imm16 : Nat)
  | xout (s imm16 : Nat)
  | build (s : Nat)
  | free (s : Nat)
  | bind (c k : Nat)
  | unbind (c : Nat)
  | reset (c : Nat)
  | sum (c : Nat)
  | upd (c : Nat)
  | updOne (c b0 : Nat)
  | updTwo (c b0 b1 : Nat)
  | rdcrc (c : Nat)
  | rdinfo (c : Nat)
  | rdchst (c : Nat)
  | rdtab (s idx : Nat)
  | rdscfg (s : Nat)
  | rdpoly (s : Nat)
  | rdinit (s : Nat)
  | rdxout (s : Nat)
  | rdstat
  | rderr
  | clrerr
  | hrd
  | feed (c : Nat) (d : List Nat)
  | deftab (s w poly init ri ro xout : Nat)
  | sumrd (c : Nat)
  deriving DecidableEq, Repr

/-- A slot or channel number fits the 4-bit field. -/
def indexOk (n : Nat) : Bool := decide (n < 16)

/-- A byte or a table index. -/
def byteOk (n : Nat) : Bool := decide (n < 256)

/-- A 16-bit immediate. -/
def immOk (n : Nat) : Bool := decide (n < 65536)

/-- `W in {8, 16}` (R85). -/
def widthOk (n : Nat) : Bool := n == 8 || n == 16

/-- `RI`, `RO` in {0, 1} (R85). -/
def bitOk (n : Nat) : Bool := n == 0 || n == 1

/-- "An operand out of its field's range ... is an assembly error" (R85). -/
def AsmLine.wellFormed : AsmLine → Bool
  | .nop | .rdstat | .rderr | .clrerr | .hrd => true
  | .cfg s w ri ro => indexOk s && widthOk w && bitOk ri && bitOk ro
  | .poly s imm | .init s imm | .xout s imm => indexOk s && immOk imm
  | .build s | .free s | .rdscfg s | .rdpoly s | .rdinit s | .rdxout s => indexOk s
  | .bind c k => indexOk c && indexOk k
  | .unbind c | .reset c | .sum c | .upd c | .rdcrc c | .rdinfo c | .rdchst c | .sumrd c => indexOk c
  | .updOne c b0 => indexOk c && byteOk b0
  | .updTwo c b0 b1 => indexOk c && byteOk b0 && byteOk b1
  | .rdtab s idx => indexOk s && byteOk idx
  | .feed c d => indexOk c && d.all byteOk
  | .deftab s w p i ri ro x =>
    indexOk s && widthOk w && immOk p && immOk i && bitOk ri && bitOk ro && immOk x

/-- The commands of a well-formed line (R85, R86); HRD is a host action, not a command. -/
def AsmLine.commands : AsmLine → List Instr
  | .nop => [.nop]
  | .cfg s w ri ro => [.cfg (BitVec.ofNat 4 s) (w == 16) (ri == 1) (ro == 1)]
  | .poly s imm => [.poly (BitVec.ofNat 4 s) (BitVec.ofNat 16 imm)]
  | .init s imm => [.init (BitVec.ofNat 4 s) (BitVec.ofNat 16 imm)]
  | .xout s imm => [.xout (BitVec.ofNat 4 s) (BitVec.ofNat 16 imm)]
  | .build s => [.build (BitVec.ofNat 4 s)]
  | .free s => [.free (BitVec.ofNat 4 s)]
  | .bind c k => [.bind (BitVec.ofNat 4 c) (BitVec.ofNat 4 k)]
  | .unbind c => [.unbind (BitVec.ofNat 4 c)]
  | .reset c => [.reset (BitVec.ofNat 4 c)]
  | .sum c => [.sum (BitVec.ofNat 4 c)]
  | .upd c => [.upd0 (BitVec.ofNat 4 c)]
  | .updOne c b0 => [.upd1 (BitVec.ofNat 4 c) (BitVec.ofNat 8 b0)]
  | .updTwo c b0 b1 => [.upd2 (BitVec.ofNat 4 c) (BitVec.ofNat 8 b0) (BitVec.ofNat 8 b1)]
  | .rdcrc c => [.rdcrc (BitVec.ofNat 4 c)]
  | .rdinfo c => [.rdinfo (BitVec.ofNat 4 c)]
  | .rdchst c => [.rdchst (BitVec.ofNat 4 c)]
  | .rdtab s idx => [.rdtab (BitVec.ofNat 4 s) (BitVec.ofNat 8 idx)]
  | .rdscfg s => [.rdscfg (BitVec.ofNat 4 s)]
  | .rdpoly s => [.rdpoly (BitVec.ofNat 4 s)]
  | .rdinit s => [.rdinit (BitVec.ofNat 4 s)]
  | .rdxout s => [.rdxout (BitVec.ofNat 4 s)]
  | .rdstat => [.rdstat]
  | .rderr => [.rderr]
  | .clrerr => [.clrerr]
  | .hrd => []
  | .feed c d => Machine.feed (BitVec.ofNat 4 c) (d.map (BitVec.ofNat 8))
  | .deftab s w p i ri ro x =>
    Machine.deftab (BitVec.ofNat 4 s) (w == 16) (BitVec.ofNat 16 p) (BitVec.ofNat 16 i) (ri == 1) (ro == 1)
      (BitVec.ofNat 16 x)
  | .sumrd c => [.sum (BitVec.ofNat 4 c)]

/-- Whether the line ends in the host action HRD (R85; R86 item 3). -/
def AsmLine.readsRes : AsmLine → Bool
  | .hrd | .sumrd _ => true
  | _ => false

/-- The host actions of a line, on a block whose window is where `s` says; none for an assembly error ("the assembler
emits no word"). -/
def AsmLine.assemble (s : State) (l : AsmLine) : Option (List BusAccess) :=
  if l.wellFormed then
    some (l.commands.map (fun i => s.cmdWrite (encode i)) ++ (if l.readsRes then [s.resRead] else []))
  else none

/-! ## The text of a line (R85). Blanks between words and around operands are skipped: DESIGN CHOICE, log 8. -/

/-- The text before a comment; a `;` inside a quoted text starts none. -/
def stripComment : Bool → List Char → List Char
  | _, [] => []
  | quoted, ch :: rest =>
    if ch = ';' && !quoted then [] else ch :: stripComment (if ch = '"' then !quoted else quoted) rest

/-- A blank. -/
def isBlank (ch : Char) : Bool := ch = ' ' || ch = '\t'

/-- Without the blanks at both ends. -/
def trim (t : List Char) : List Char := ((t.dropWhile isBlank).reverse.dropWhile isBlank).reverse

/-- The operands: the parts between the commas outside quoted text. -/
def splitCommas : Bool → List Char → List (List Char)
  | _, [] => [[]]
  | quoted, ch :: rest =>
    if ch = ',' && !quoted then [] :: splitCommas quoted rest
    else
      match splitCommas (if ch = '"' then !quoted else quoted) rest with
      | [] => [[ch]]
      | part :: parts => (ch :: part) :: parts

/-- A digit's value in the base, if it is one. -/
def digit (base : Nat) (ch : Char) : Option Nat :=
  let n := ch.toNat
  let v := if 48 ≤ n && n ≤ 57 then n - 48 else if 97 ≤ n && n ≤ 102 then n - 87
    else if 65 ≤ n && n ≤ 70 then n - 55 else base
  if v < base then some v else none

/-- Digits, most significant first, after `acc`. -/
def digits (base : Nat) : Nat → List Char → Option Nat
  | acc, [] => some acc
  | acc, ch :: rest =>
    match digit base ch with
    | some v => digits base (acc * base + v) rest
    | none => none

/-- A number in decimal or `0x` hexadecimal (R85). -/
def number (t : List Char) : Option Nat :=
  match t with
  | [] => none
  | '0' :: 'x' :: h :: rest => digits 16 0 (h :: rest)
  | t => digits 10 0 t

/-- Every operand a number. -/
def numbers : List (List Char) → Option (List Nat)
  | [] => some []
  | t :: rest =>
    match number t, numbers rest with
    | some n, some ns => some (n :: ns)
    | _, _ => none

/-- The ASCII bytes of a quoted text (R86 item 1). -/
def quotedText (t : List Char) : Option (List Nat) :=
  match t with
  | '"' :: rest =>
    match rest.reverse with
    | '"' :: body => if body.all (fun ch => ch.toNat < 128 && ch ≠ '"') then some (body.reverse.map Char.toNat) else none
    | _ => none
  | _ => none

/-- A line of a mnemonic and numbers (R85, R86). -/
def lineOf (mnemonic : List Char) (ops : List Nat) : Option AsmLine :=
  match String.ofList mnemonic, ops with
  | "NOP", [] => some .nop
  | "CFG", [s, w, ri, ro] => some (.cfg s w ri ro)
  | "POLY", [s, v] => some (.poly s v)
  | "INIT", [s, v] => some (.init s v)
  | "XOUT", [s, v] => some (.xout s v)
  | "BUILD", [s] => some (.build s)
  | "FREE", [s] => some (.free s)
  | "BIND", [c, k] => some (.bind c k)
  | "UNBIND", [c] => some (.unbind c)
  | "RESET", [c] => some (.reset c)
  | "SUM", [c] => some (.sum c)
  | "UPD", [c] => some (.upd c)
  | "UPD", [c, b0] => some (.updOne c b0)
  | "UPD", [c, b0, b1] => some (.updTwo c b0 b1)
  | "RDCRC", [c] => some (.rdcrc c)
  | "RDINFO", [c] => some (.rdinfo c)
  | "RDCHST", [c] => some (.rdchst c)
  | "RDTAB", [s, idx] => some (.rdtab s idx)
  | "RDSCFG", [s] => some (.rdscfg s)
  | "RDPOLY", [s] => some (.rdpoly s)
  | "RDINIT", [s] => some (.rdinit s)
  | "RDXOUT", [s] => some (.rdxout s)
  | "RDSTAT", [] => some .rdstat
  | "RDERR", [] => some .rderr
  | "CLRERR", [] => some .clrerr
  | "HRD", [] => some .hrd
  | "FEED", c :: d => some (.feed c d)
  | "DEFTAB", [s, w, p, i, ri, ro, x] => some (.deftab s w p i ri ro x)
  | "SUMRD", [c] => some (.sumrd c)
  | _, _ => none

/-- FEED with a quoted text (R86 item 1), or a line of numbers. -/
def lineOfOperands (mnemonic : List Char) (ops : List (List Char)) : Option AsmLine :=
  match ops with
  | [c, t] =>
    match quotedText t, number c with
    | some d, some c => if String.ofList mnemonic = "FEED" then some (.feed c d) else none
    | _, _ => (numbers ops).bind (lineOf mnemonic)
  | _ => (numbers ops).bind (lineOf mnemonic)

/-- The line a text stands for: `some none` for a line with no command, `none` for an assembly error. -/
def parseLine (t : List Char) : Option (Option AsmLine) :=
  let body := trim (stripComment false t)
  let mnemonic := body.takeWhile (fun ch => !isBlank ch)
  let rest := trim (body.drop mnemonic.length)
  if body.isEmpty then some none
  else (lineOfOperands mnemonic (if rest.isEmpty then [] else (splitCommas false rest).map trim)).map some

/-- The host actions of a program's text, line by line; none if any line is an assembly error. -/
def assembleProgram (s : State) : List (List Char) → Option (List BusAccess)
  | [] => some []
  | t :: rest =>
    match parseLine t, assembleProgram s rest with
    | some none, some more => some more
    | some (some l), some more => (l.assemble s).map (fun a => a ++ more)
    | _, _ => none

end Sys2Proof.Machine
end

