-- ==== Sys2Proof/Safety.lean ====
section
/-! DEFINITION. What the statements are said in: which error a command raises (spec/60_exceptions.md R201, R204), what stays the same, the invariants of a machine that has run from reset (spec/10_state.md R29, R31, R32, R34, R35; spec/20_memory.md R50, R52), what a line of the assembler emits (spec/30_encoding.md R85, R86), and machines that no command can tell apart (R38, R53). -/

namespace Sys2Proof.Machine

/-! ## Which error a command raises -/

/-- The channel operand of a command (R201, the BAD_CHANNEL row). -/
def channelOperand : Instr → Option Index
  | .bind c _ | .unbind c | .reset c | .upd0 c | .upd1 c _ | .upd2 c _ _ | .sum c => some c
  | .rdcrc u | .rdinfo u | .rdchst u => some u
  | .nop | .cfg _ _ _ _ | .poly _ _ | .init _ _ | .xout _ _ | .build _ | .free _ => none
  | .rdtab _ _ | .rdstat | .rderr | .rdscfg _ | .rdpoly _ | .rdinit _ | .rdxout _ | .clrerr => none

/-- The slot operand of a command (R201, the BAD_SLOT row). -/
def slotOperand : Instr → Option Index
  | .cfg k _ _ _ | .poly k _ | .init k _ | .xout k _ | .build k | .free k | .bind _ k => some k
  | .rdtab u _ | .rdscfg u | .rdpoly u | .rdinit u | .rdxout u => some u
  | .nop | .unbind _ | .reset _ | .upd0 _ | .upd1 _ _ | .upd2 _ _ _ | .sum _ => none
  | .rdcrc _ | .rdinfo _ | .rdstat | .rderr | .rdchst _ | .clrerr => none

/-- The state check that fails (R204 item 4, R201 codes 4 to 8), if one does. -/
def stateError (i : Instr) (s : State) : Option ErrorCode :=
  match i with
  | .cfg k _ _ _ | .poly k _ | .init k _ | .xout k _ => if (s.slot k).valid then some .slotLocked else none
  | .build k =>
    if (s.slot k).valid then some .slotLocked else if (s.slot k).inRange then none else some .paramRange
  | .free k => if (s.slot k).valid && decide (0 < s.users k) then some .slotInUse else none
  | .bind _ k | .rdtab k _ => if (s.slot k).valid then none else some .slotEmpty
  | .reset c | .upd0 c | .upd1 c _ | .upd2 c _ _ | .sum c | .rdcrc c | .rdinfo c =>
    if (s.channel c).bound then none else some .unbound
  | .nop | .unbind _ | .rdstat | .rderr | .rdscfg _ | .rdpoly _ | .rdinit _ | .rdxout _ | .rdchst _ | .clrerr => none

/-- The operand is an index the block does not have (R88). -/
def outOfRange (operand : Option Index) (count : Nat) : Bool :=
  match operand with
  | some k => decide (count ≤ k.toNat)
  | none => false

/-- The error the command raises: of those that apply, the first in the order of R204. -/
def raisedError (i : Instr) (s : State) : Option ErrorCode :=
  if outOfRange (channelOperand i) s.cfg.numChannels then some .badChannel
  else if outOfRange (slotOperand i) s.cfg.numTables then some .badSlot
  else stateError i s

/-! ## What stays the same -/

/-- Every slot's registers and table. -/
abbrev SlotsSame (s t : State) : Prop := ∀ k, t.slot k = s.slot k

/-- Every slot but `k`. -/
abbrev OtherSlotsSame (k : Index) (s t : State) : Prop := ∀ j, j ≠ k → t.slot j = s.slot j

/-- Every channel's registers. -/
abbrev ChannelsSame (s t : State) : Prop := ∀ c, t.channel c = s.channel c

/-- Every channel but `c`. -/
abbrev OtherChannelsSame (c : Index) (s t : State) : Prop := ∀ j, j ≠ c → t.channel j = s.channel j

/-- `STATUS` and `ERRCMD`. -/
abbrev ErrorRecordSame (s t : State) : Prop := t.status = s.status ∧ t.errcmd = s.errcmd

/-- The configuration and the host's side. -/
abbrev HostSideSame (s t : State) : Prop :=
  t.cfg = s.cfg ∧ t.pending = s.pending ∧ t.index = s.index ∧ t.history = s.history

/-- All but one slot: what a command that writes slot `k` leaves. -/
abbrev OnlySlotChanged (k : Index) (s t : State) : Prop :=
  OtherSlotsSame k s t ∧ ChannelsSame s t ∧ t.res = s.res ∧ ErrorRecordSame s t ∧ HostSideSame s t

/-- All but one channel: what a command that writes channel `c` leaves. -/
abbrev OnlyChannelChanged (c : Index) (s t : State) : Prop :=
  SlotsSame s t ∧ OtherChannelsSame c s t ∧ t.res = s.res ∧ ErrorRecordSame s t ∧ HostSideSame s t

/-- All but `RES`. -/
abbrev OnlyResChanged (s t : State) : Prop :=
  SlotsSame s t ∧ ChannelsSame s t ∧ ErrorRecordSame s t ∧ HostSideSame s t

/-- All but `STATUS` and `ERRCMD`. -/
abbrev OnlyErrorRecordChanged (s t : State) : Prop :=
  SlotsSame s t ∧ ChannelsSame s t ∧ t.res = s.res ∧ HostSideSame s t

/-- The recording of R203, register by register: the first error sets ERR, ERRCODE and ERRCMD; a later one only MULTI. -/
abbrev ErrorRecorded (e : ErrorCode) (w : Word) (s t : State) : Prop :=
  t.status.err = true ∧
  (s.status.err = false → t.status.errcode = e.code ∧ t.errcmd = w ∧ t.status.multi = s.status.multi) ∧
  (s.status.err = true → t.status.errcode = s.status.errcode ∧ t.errcmd = s.errcmd ∧ t.status.multi = true)

/-- The command is rejected with error `e` (R200, R203, R205): it ends, the error is recorded with the command's word,
and nothing else changes. -/
abbrev Rejects (i : Instr) (s : State) (e : ErrorCode) : Prop :=
  ∃ t, exec i s = .next t ∧ ErrorRecorded e (encode i) s t ∧ OnlyErrorRecordChanged s t

/-- The words a row of R79 encodes: exactly those with `(w AND mask) = match` decode to the command of the row, with the
fields of the word as its operands. -/
abbrev RowDecodes (matchBits mask : Word) (command : Word → Instr) : Prop :=
  ∀ w : Word, w &&& mask = matchBits ↔ decode w = .ok (command w)

/-! ## Invariants -/

/-- A valid slot exists, its parameters fit its width (R29), and its table is the one BUILD generated (R52). -/
abbrev SlotInv (s : State) (k : Index) : Prop :=
  (s.slot k).valid = true →
    k.toNat < s.cfg.numTables ∧ (s.slot k).inRange = true ∧ (s.slot k).tab = (s.slot k).generated

/-- A bound channel exists and references a valid slot (R31), and its register fits the slot's width (R32); an unbound
one's TSEL and CRC are 0 (R32, R180). -/
abbrev ChannelInv (s : State) (c : Index) : Prop :=
  ((s.channel c).bound = true →
    c.toNat < s.cfg.numChannels ∧ (s.channel c).tsel.toNat < s.cfg.numTables ∧
    (s.slot (s.channel c).tsel).valid = true ∧ fits (s.slot (s.channel c).tsel).width (s.channel c).crc = true) ∧
  ((s.channel c).bound = false → (s.channel c).tsel = 0 ∧ (s.channel c).crc = 0)

/-- ERRCODE is a code of R201 while `ERR = 1`; with `ERR = 0` the whole record is 0 (R34, R35). -/
abbrev ErrorInv (s : State) : Prop :=
  (s.status.err = true → 1 ≤ s.status.errcode.toNat ∧ s.status.errcode.toNat ≤ 8) ∧
  (s.status.err = false → s.status.multi = false ∧ s.status.errcode = 0 ∧ s.errcmd = 0)

/-- The invariant of a block that has run from reset. -/
abbrev State.Inv (s : State) : Prop :=
  s.cfg.Valid ∧ (∀ k, SlotInv s k) ∧ (∀ c, ChannelInv s c) ∧ ErrorInv s ∧ s.index = s.history.length

/-! ## Runs of commands -/

/-- The commands, one after the other. -/
def runInstrs : List Instr → State → Result
  | [], s => .next s
  | i :: rest, s => andThen (exec i s) (runInstrs rest)

/-- What one UPD command carries: no byte, one, or two (R143). -/
inductive Chunk where
  | none
  | one (b0 : Byte)
  | two (b0 b1 : Byte)
  deriving DecidableEq, Repr

/-- The UPD command of a chunk. -/
def Chunk.instr (c : Index) : Chunk → Instr
  | .none => .upd0 c
  | .one b0 => .upd1 c b0
  | .two b0 b1 => .upd2 c b0 b1

/-- The bytes of a chunk, in stream order. -/
def Chunk.bytes : Chunk → List Byte
  | .none => []
  | .one b0 => [b0]
  | .two b0 b1 => [b0, b1]

/-! ## Lines of the assembler -/

/-- The line assembles, exactly when its operands are as `ok` says, to one bus write of CMD, of the word that is `word`
as a number; else it is an assembly error (R85). -/
abbrev LineEmits (s : State) (l : AsmLine) (ok : Prop) (word : Nat) : Prop :=
  (ok → ∃ w : Word, l.assemble s = some [.write s.cfg.base 32 w] ∧ w.toNat = word) ∧ (¬ ok → l.assemble s = none)

/-- The host actions of the lines, one line after the other; none if one is an assembly error. -/
def assembleLines (s : State) : List AsmLine → Option (List BusAccess)
  | [] => some []
  | l :: rest => (l.assemble s).bind (fun a => (assembleLines s rest).map (fun more => a ++ more))

/-- The UPD lines `FEED c, d(0), ..., d(m-1)` stands for, as R86 item 1 counts them: for each `j = 0, 2, 4, ...` below
`m`, `UPD c, d(j), d(j+1)` when `j + 1 < m`, else `UPD c, d(j)`; and `UPD c` when `m = 0`. -/
def feedLines (c : Nat) (d : List Nat) : List AsmLine :=
  if d.length = 0 then [.upd c]
  else (List.range ((d.length + 1) / 2)).map (fun h =>
    if 2 * h + 1 < d.length then .updTwo c (d.getD (2 * h) 0) (d.getD (2 * h + 1) 0)
    else .updOne c (d.getD (2 * h) 0))

/-! ## Machines no command can tell apart -/

/-- Two slots that differ at most in the table memory of an empty slot. -/
abbrev SlotAlike (a b : Slot) : Prop :=
  b.scfg = a.scfg ∧ b.poly = a.poly ∧ b.init = a.init ∧ b.xout = a.xout ∧ b.valid = a.valid ∧
  (a.valid = true → b.tab = a.tab)

/-- Two machines that differ at most in the table memory of empty slots (R38, R53). -/
abbrev Alike (s t : State) : Prop :=
  (∀ k, SlotAlike (s.slot k) (t.slot k)) ∧ ChannelsSame s t ∧ t.res = s.res ∧ ErrorRecordSame s t ∧ HostSideSame s t

/-- Two outcomes of one kind: alike next states, or the same refusal. -/
def OutcomesAlike (a b : Result) : Prop :=
  match a, b with
  | .next s, .next t => Alike s t
  | .fault x, .fault y => x = y
  | .refused x, .refused y => x = y
  | _, _ => False

end Sys2Proof.Machine
end

