-- ==== Sys2Proof/WellFormed.lean ====
section
/-! DEFINITION. Well-formedness: of a command word, by the opcode map (spec/30_encoding.md R79, R80), and of a command, whose operands have the widths of their fields. -/

namespace Sys2Proof

/-- A word is well formed when it matches a row of R79: the opcode and the selector are not reserved, and every
reserved bit is 0 (R80 to R82). -/
def wellFormedWord (w : Word) : Bool := opcodeRows.any (fun r => r.matchesWord w)

/-- A command is well formed when its word is. Since every operand type is the width of its encoding field, every
term of `Instr` is: an operand out of its field's range is no term of `Instr`, and the assembler, which reads
operands as numbers, checks the ranges of R85 (`Machine.AsmLine.wellFormed`). -/
def Instr.wellFormed (i : Instr) : Bool := wellFormedWord (encode i)

end Sys2Proof
end

