-- ==== Sys2Proof/Certificates/Slice0/Obligations.lean ====
section
/-! DEFINITION. The statements about the machine, for the provers. Each docstring names the rule of spec/ it formalises. -/

open Sys2Proof Sys2Proof.Machine

/-! ## The table generator -/

/-- R105. -/
def Obligations.CfgConfiguresEmptySlot : Prop :=
  RowDecodes 0x10000000 0xF0FFFFF8 (fun w => .cfg (unitField w) (w.getLsbD 0) (w.getLsbD 1) (w.getLsbD 2)) ∧
  ∀ (k : Index) (w16 refin refout : Bool) (s : State),
    (s.cfg.numTables ≤ k.toNat → Rejects (.cfg k w16 refin refout) s .badSlot) ∧
    (k.toNat < s.cfg.numTables → (s.slot k).valid = true → Rejects (.cfg k w16 refin refout) s .slotLocked) ∧
    (k.toNat < s.cfg.numTables → (s.slot k).valid = false →
      ∃ t, exec (.cfg k w16 refin refout) s = .next t ∧
        t.slot k = { s.slot k with scfg := { w16 := w16, refin := refin, refout := refout } } ∧ OnlySlotChanged k s t)

/-- R106, R107 and R108, which have one shape: any 16-bit value is stored in an empty slot's register. -/
def Obligations.PolyInitXoutStoreImmediate : Prop :=
  RowDecodes 0x20000000 0xF0FF0000 (fun w => .poly (unitField w) (immField w)) ∧
  RowDecodes 0x30000000 0xF0FF0000 (fun w => .init (unitField w) (immField w)) ∧
  RowDecodes 0x40000000 0xF0FF0000 (fun w => .xout (unitField w) (immField w)) ∧
  ∀ (k : Index) (v : Half) (s : State),
    (∀ i ∈ [Instr.poly k v, .init k v, .xout k v],
      (s.cfg.numTables ≤ k.toNat → Rejects i s .badSlot) ∧
      (k.toNat < s.cfg.numTables → (s.slot k).valid = true → Rejects i s .slotLocked)) ∧
    (k.toNat < s.cfg.numTables → (s.slot k).valid = false →
      (∃ t, exec (.poly k v) s = .next t ∧ t.slot k = { s.slot k with poly := v } ∧ OnlySlotChanged k s t) ∧
      (∃ t, exec (.init k v) s = .next t ∧ t.slot k = { s.slot k with init := v } ∧ OnlySlotChanged k s t) ∧
      (∃ t, exec (.xout k v) s = .next t ∧ t.slot k = { s.slot k with xout := v } ∧ OnlySlotChanged k s t))

/-- R109, with the range check of R103 and the table function of R101. -/
def Obligations.BuildGeneratesTable : Prop :=
  RowDecodes 0x50000000 0xF0FFFFFF (fun w => .build (unitField w)) ∧
  ∀ (k : Index) (s : State),
    (s.cfg.numTables ≤ k.toNat → Rejects (.build k) s .badSlot) ∧
    (k.toNat < s.cfg.numTables → (s.slot k).valid = true → Rejects (.build k) s .slotLocked) ∧
    (k.toNat < s.cfg.numTables → (s.slot k).valid = false →
      (fits (s.slot k).width (s.slot k).poly && fits (s.slot k).width (s.slot k).init &&
        fits (s.slot k).width (s.slot k).xout) = false → Rejects (.build k) s .paramRange) ∧
    (k.toNat < s.cfg.numTables → (s.slot k).valid = false → fits (s.slot k).width (s.slot k).poly = true →
      fits (s.slot k).width (s.slot k).init = true → fits (s.slot k).width (s.slot k).xout = true →
      ∃ t, exec (.build k) s = .next t ∧
        (∀ i : Byte, (t.slot k).tabRead i = genEntry (s.slot k).width (s.slot k).poly (s.slot k).scfg.refin i) ∧
        t.slot k = { s.slot k with tab := (t.slot k).tab, valid := true } ∧ OnlySlotChanged k s t)

/-- R110, with USERS of R36 said as "some channel of the block is bound to the slot". What the freed slot's table memory
holds is unspecified (R53) and not said. -/
def Obligations.FreeEmptiesUnusedSlot : Prop :=
  RowDecodes 0x60000000 0xF0FFFFFF (fun w => .free (unitField w)) ∧
  ∀ (k : Index) (s : State),
    (s.cfg.numTables ≤ k.toNat → Rejects (.free k) s .badSlot) ∧
    (k.toNat < s.cfg.numTables → (s.slot k).valid = false → exec (.free k) s = .next s) ∧
    (k.toNat < s.cfg.numTables → (s.slot k).valid = true →
      (∃ c : Index, c.toNat < s.cfg.numChannels ∧ (s.channel c).bound = true ∧ (s.channel c).tsel = k) →
      Rejects (.free k) s .slotInUse) ∧
    (k.toNat < s.cfg.numTables → (s.slot k).valid = true →
      (∀ c : Index, c.toNat < s.cfg.numChannels → (s.channel c).bound = true → (s.channel c).tsel ≠ k) →
      ∃ t, exec (.free k) s = .next t ∧ t.slot k = { s.slot k with valid := false, tab := (t.slot k).tab } ∧
        OnlySlotChanged k s t)

/-! ## The accumulator -/

/-- R140, with the seed of R132. -/
def Obligations.BindSeedsChannel : Prop :=
  RowDecodes 0x70000000 0xF00FFFFF (fun w => .bind (unitField w) (secondField w)) ∧
  ∀ (c k : Index) (s : State),
    (s.cfg.numChannels ≤ c.toNat → Rejects (.bind c k) s .badChannel) ∧
    (c.toNat < s.cfg.numChannels → s.cfg.numTables ≤ k.toNat → Rejects (.bind c k) s .badSlot) ∧
    (c.toNat < s.cfg.numChannels → k.toNat < s.cfg.numTables → (s.slot k).valid = false →
      Rejects (.bind c k) s .slotEmpty) ∧
    (c.toNat < s.cfg.numChannels → k.toNat < s.cfg.numTables → (s.slot k).valid = true →
      ∃ t, exec (.bind c k) s = .next t ∧
        (t.channel c).bound = true ∧ (t.channel c).tsel = k ∧
        ((s.slot k).scfg.refin = true → (t.channel c).crc = reflect (s.slot k).width (s.slot k).init) ∧
        ((s.slot k).scfg.refin = false → (t.channel c).crc = (s.slot k).init) ∧ OnlyChannelChanged c s t)

/-- R141. -/
def Obligations.UnbindClearsChannel : Prop :=
  RowDecodes 0x80000000 0xF0FFFFFF (fun w => .unbind (unitField w)) ∧
  ∀ (c : Index) (s : State),
    (s.cfg.numChannels ≤ c.toNat → Rejects (.unbind c) s .badChannel) ∧
    (c.toNat < s.cfg.numChannels →
      ∃ t, exec (.unbind c) s = .next t ∧ t.channel c = { bound := false, tsel := 0, crc := 0 } ∧
        OnlyChannelChanged c s t)

/-- R142, with the seed of R132. -/
def Obligations.ResetReseedsChannel : Prop :=
  RowDecodes 0x90000000 0xF0FFFFFF (fun w => .reset (unitField w)) ∧
  ∀ (c : Index) (s : State),
    (s.cfg.numChannels ≤ c.toNat → Rejects (.reset c) s .badChannel) ∧
    (c.toNat < s.cfg.numChannels → (s.channel c).bound = false → Rejects (.reset c) s .unbound) ∧
    (c.toNat < s.cfg.numChannels → (s.channel c).bound = true →
      ∃ t, exec (.reset c) s = .next t ∧
        (t.channel c).bound = true ∧ (t.channel c).tsel = (s.channel c).tsel ∧
        ((s.slot (s.channel c).tsel).scfg.refin = true →
          (t.channel c).crc = reflect (s.slot (s.channel c).tsel).width (s.slot (s.channel c).tsel).init) ∧
        ((s.slot (s.channel c).tsel).scfg.refin = false → (t.channel c).crc = (s.slot (s.channel c).tsel).init) ∧
        OnlyChannelChanged c s t)

/-- R143, over the fold of R134: no byte, one byte, or `b0` and then `b1`. -/
def Obligations.UpdFoldsBytesInOrder : Prop :=
  RowDecodes 0xA0000000 0xF0FFFFFF (fun w => .upd0 (unitField w)) ∧
  RowDecodes 0xA0010000 0xF0FFFF00 (fun w => .upd1 (unitField w) (lowByte w)) ∧
  RowDecodes 0xA0020000 0xF0FF0000 (fun w => .upd2 (unitField w) (lowByte w) (highByte w)) ∧
  ∀ (c : Index) (b0 b1 : Byte) (s : State),
    (∀ i ∈ [Instr.upd0 c, .upd1 c b0, .upd2 c b0 b1],
      (s.cfg.numChannels ≤ c.toNat → Rejects i s .badChannel) ∧
      (c.toNat < s.cfg.numChannels → (s.channel c).bound = false → Rejects i s .unbound)) ∧
    (c.toNat < s.cfg.numChannels → (s.channel c).bound = true →
      (∃ t, exec (.upd0 c) s = .next t ∧ t.channel c = s.channel c ∧ OnlyChannelChanged c s t) ∧
      (∃ t, exec (.upd1 c b0) s = .next t ∧
        t.channel c = { s.channel c with crc := (s.slot (s.channel c).tsel).fold (s.channel c).crc b0 } ∧
        OnlyChannelChanged c s t) ∧
      (∃ t, exec (.upd2 c b0 b1) s = .next t ∧
        t.channel c = { s.channel c with
          crc := (s.slot (s.channel c).tsel).fold ((s.slot (s.channel c).tsel).fold (s.channel c).crc b0) b1 } ∧
        OnlyChannelChanged c s t))

/-- R144, over the finalization of R136: RES gets the checksum and the channel is not changed. -/
def Obligations.SumPlacesChecksumInRes : Prop :=
  RowDecodes 0xB0000000 0xF0FFFFFF (fun w => .sum (unitField w)) ∧
  ∀ (c : Index) (s : State),
    (s.cfg.numChannels ≤ c.toNat → Rejects (.sum c) s .badChannel) ∧
    (c.toNat < s.cfg.numChannels → (s.channel c).bound = false → Rejects (.sum c) s .unbound) ∧
    (c.toNat < s.cfg.numChannels → (s.channel c).bound = true →
      ∃ t, exec (.sum c) s = .next t ∧
        t.res = ((s.slot (s.channel c).tsel).final (s.channel c).crc).setWidth 32 ∧ OnlyResChanged s t ∧
        ((s.slot (s.channel c).tsel).width = .w8 → t.res.toNat < 2 ^ 8) ∧ t.res.toNat < 2 ^ 16)

/-! ## Read-back and control -/

/-- R171, R173 and R180: the reads of a channel. -/
def Obligations.ChannelReadsPlaceRegisterInRes : Prop :=
  RowDecodes 0xC0000000 0xFF0FFFFF (fun w => .rdcrc (secondField w)) ∧
  RowDecodes 0xC2000000 0xFF0FFFFF (fun w => .rdinfo (secondField w)) ∧
  RowDecodes 0xC9000000 0xFF0FFFFF (fun w => .rdchst (secondField w)) ∧
  ∀ (c : Index) (s : State),
    (∀ i ∈ [Instr.rdcrc c, .rdinfo c, .rdchst c], s.cfg.numChannels ≤ c.toNat → Rejects i s .badChannel) ∧
    (∀ i ∈ [Instr.rdcrc c, .rdinfo c],
      c.toNat < s.cfg.numChannels → (s.channel c).bound = false → Rejects i s .unbound) ∧
    (c.toNat < s.cfg.numChannels → (s.channel c).bound = true →
      (∃ t, exec (.rdcrc c) s = .next t ∧ t.res.toNat = (s.channel c).crc.toNat ∧ OnlyResChanged s t) ∧
      (∃ t, exec (.rdinfo c) s = .next t ∧
        t.res = (match (s.slot (s.channel c).tsel).width with | .w8 => 0x00000101 | .w16 => 0x00000102) ∧
        OnlyResChanged s t)) ∧
    (c.toNat < s.cfg.numChannels →
      ∃ t, exec (.rdchst c) s = .next t ∧
        t.res.toNat = 16 * (s.channel c).tsel.toNat + (s.channel c).bound.toNat ∧ OnlyResChanged s t)

/-- R172, R176, R177, R178 and R179: the reads of a slot. -/
def Obligations.SlotReadsPlaceRegisterInRes : Prop :=
  RowDecodes 0xC1000000 0xFF0FFF00 (fun w => .rdtab (secondField w) (lowByte w)) ∧
  RowDecodes 0xC5000000 0xFF0FFFFF (fun w => .rdscfg (secondField w)) ∧
  RowDecodes 0xC6000000 0xFF0FFFFF (fun w => .rdpoly (secondField w)) ∧
  RowDecodes 0xC7000000 0xFF0FFFFF (fun w => .rdinit (secondField w)) ∧
  RowDecodes 0xC8000000 0xFF0FFFFF (fun w => .rdxout (secondField w)) ∧
  ∀ (k : Index) (idx : Byte) (s : State),
    (∀ i ∈ [Instr.rdtab k idx, .rdscfg k, .rdpoly k, .rdinit k, .rdxout k],
      s.cfg.numTables ≤ k.toNat → Rejects i s .badSlot) ∧
    (k.toNat < s.cfg.numTables → (s.slot k).valid = false → Rejects (.rdtab k idx) s .slotEmpty) ∧
    (k.toNat < s.cfg.numTables → (s.slot k).valid = true →
      ∃ t, exec (.rdtab k idx) s = .next t ∧ t.res.toNat = ((s.slot k).tabRead idx).toNat ∧ OnlyResChanged s t) ∧
    (k.toNat < s.cfg.numTables →
      (∃ t, exec (.rdscfg k) s = .next t ∧
        t.res.toNat = 8 * (s.slot k).valid.toNat + 4 * (s.slot k).scfg.refout.toNat +
          2 * (s.slot k).scfg.refin.toNat + (s.slot k).scfg.w16.toNat ∧ OnlyResChanged s t) ∧
      (∃ t, exec (.rdpoly k) s = .next t ∧ t.res.toNat = (s.slot k).poly.toNat ∧ OnlyResChanged s t) ∧
      (∃ t, exec (.rdinit k) s = .next t ∧ t.res.toNat = (s.slot k).init.toNat ∧ OnlyResChanged s t) ∧
      (∃ t, exec (.rdxout k) s = .next t ∧ t.res.toNat = (s.slot k).xout.toNat ∧ OnlyResChanged s t))

/-- R174, with the layout of R34, and R175: the reads of the error record, in every state. -/
def Obligations.ErrorRecordReads : Prop :=
  RowDecodes 0xC3000000 0xFFFFFFFF (fun _ => .rdstat) ∧
  RowDecodes 0xC4000000 0xFFFFFFFF (fun _ => .rderr) ∧
  ∀ s : State,
    (∃ t, exec .rdstat s = .next t ∧
      t.res.toNat = 16 * s.status.errcode.toNat + 2 * s.status.multi.toNat + s.status.err.toNat ∧
      OnlyResChanged s t) ∧
    (∃ t, exec .rderr s = .next t ∧ t.res = s.errcmd ∧ OnlyResChanged s t)

/-- R181, in every state. -/
def Obligations.ClrerrClearsErrorRecord : Prop :=
  RowDecodes 0xD0000000 0xFFFFFFFF (fun _ => .clrerr) ∧
  ∀ s : State, ∃ t, exec .clrerr s = .next t ∧
    t.status = { err := false, multi := false, errcode := 0 } ∧ t.errcmd = 0 ∧ OnlyErrorRecordChanged s t

/-- R182, in every state. -/
def Obligations.NopChangesNothing : Prop :=
  RowDecodes 0x00000000 0xFFFFFFFF (fun _ => .nop) ∧ ∀ s : State, exec .nop s = .next s

/-! ## The bus, the step and reset -/

/-- R55: the two host actions, the two accesses without effect, and every other access, which is refused. Each is
the first pending input. The model's choices: performing an access takes it from the list, and index and history grow
(log 3), by the two accesses without effect too (log 12); an access below the window, of which R55 does not speak, is
refused as those in the window are (log 6). -/
def Obligations.HostAccessesFollowBusMap : Prop :=
  ∀ (s : State) (rest : List HostInput) (data : Word),
    (∀ a, s.pending = .access a :: rest → a = .write s.cfg.base 32 data →
      step s = execute data ({ s with pending := rest }.record a none)) ∧
    (∀ a, s.pending = .access a :: rest → a = .read (s.cfg.base + 4) 32 →
      step s = .next ({ s with pending := rest }.record a (some s.res))) ∧
    (∀ a, s.pending = .access a :: rest → a = .read s.cfg.base 32 →
      step s = .next ({ s with pending := rest }.record a (some 0))) ∧
    (∀ a, s.pending = .access a :: rest → a = .write (s.cfg.base + 4) 32 data →
      step s = .next ({ s with pending := rest }.record a none)) ∧
    (∀ addr bits, s.pending = .access (.write addr bits data) :: rest ∨ s.pending = .access (.read addr bits) :: rest →
      ¬ (bits = 32 ∧ (addr = s.cfg.base ∨ addr = s.cfg.base + 4)) → ∃ r, step s = .refused r)

/-- A step runs the decoded command (R58, R84): when the next input is the bus write of a word to CMD, the step is `exec`
of the command the word decodes to, and a word that decodes to none records ILLEGAL and changes nothing else. What
the step adds around `exec` is the model's own: the input is taken, index and history grow (log 3). -/
def Obligations.StepRunsDecodedCommand : Prop :=
  ∀ (s : State) (rest : List HostInput) (w : Word),
    s.pending = .access (.write s.cfg.base 32 w) :: rest →
    let before := { s with pending := rest, index := s.index + 1,
                           history := s.history ++ [{ access := .write s.cfg.base 32 w, data := none }] }
    (∀ i, decode w = .ok i → step s = exec i before) ∧
    (∀ r, decode w = .error r →
      ∃ t, step s = .next t ∧ ErrorRecorded .illegal w before t ∧ OnlyErrorRecordChanged before t)

/-- R21: every performed access, whatever its outcome, advances the command index by exactly 1. The model's choices: the
access leaves the pending list and joins the history (log 3), and the read of CMD and the ignored write of RES, which
R55 does not count among the host's actions, advance the index as well (log 12). -/
def Obligations.CommandIndexAdvancesByOne : Prop :=
  ∀ (s t : State) (a : BusAccess) (rest : List HostInput),
    s.pending = .access a :: rest → step s = .next t →
    t.index = s.index + 1 ∧ t.pending = rest ∧ ∃ data, t.history = s.history ++ [{ access := a, data := data }]

/-- R39: the register values after reset, for every configuration; and nothing pending, no history, index 0 (R231). The
table memory, which R39 leaves unspecified, is not named. -/
def Obligations.ResetValues : Prop :=
  State.reset = State.resetFor { numTables := 4, numChannels := 4, base := 0, byteOrder := .littleEndian } ∧
  ∀ (cfg : Config) (k c : Index),
    let s := State.resetFor cfg
    s.cfg = cfg ∧
    (s.slot k).scfg = { w16 := false, refin := false, refout := false } ∧
    (s.slot k).poly = 0 ∧ (s.slot k).init = 0 ∧ (s.slot k).xout = 0 ∧ (s.slot k).valid = false ∧
    (s.channel c).bound = false ∧ (s.channel c).tsel = 0 ∧ (s.channel c).crc = 0 ∧
    s.res = 0 ∧ s.status.word = 0 ∧ s.errcmd = 0 ∧ s.pending = [] ∧ s.index = 0 ∧ s.history = []

/-- R230: block reset between two accesses gives every register its reset value in one step, whatever it held. What the
table memory then holds is unspecified and not said. That the host's accesses still to come remain, and that index and
history restart (R231), is the model's choice (log 5). -/
def Obligations.BlockResetInputResetsRegisters : Prop :=
  ∀ (s : State) (rest : List HostInput), s.pending = .blockReset :: rest →
    ∃ t, step s = .next t ∧
      (∀ k, t.slot k = { scfg := { w16 := false, refin := false, refout := false }, poly := 0, init := 0, xout := 0,
                         valid := false, tab := (t.slot k).tab }) ∧
      (∀ c, t.channel c = { bound := false, tsel := 0, crc := 0 }) ∧
      t.res = 0 ∧ t.status = { err := false, multi := false, errcode := 0 } ∧ t.errcmd = 0 ∧
      t.cfg = s.cfg ∧ t.pending = rest ∧ t.index = 0 ∧ t.history = []

/-- R216: between commands the block holds its state unchanged. That a step with nothing pending is such a step is the
model's choice (log 4). -/
def Obligations.IdleStepHoldsState : Prop :=
  ∀ s : State, s.pending = [] → step s = .next s

/-- Words written out from the formats of R73 decode to the commands they stand for. -/
def Obligations.WrittenOutWordsDecode : Prop :=
  decode 0b00000000000000000000000000000000#32 = .ok .nop ∧
  decode 0b00010001000000000000000000000111#32 = .ok (.cfg 1 true true true) ∧
  decode 0b00100000000000000001000000100001#32 = .ok (.poly 0 0x1021) ∧
  decode 0b01010010000000000000000000000000#32 = .ok (.build 2) ∧
  decode 0b01110010000100000000000000000000#32 = .ok (.bind 2 1) ∧
  decode 0b10100000000000100011001000110001#32 = .ok (.upd2 0 0x31 0x32) ∧
  decode 0b11000001001100000000000000000001#32 = .ok (.rdtab 3 1) ∧
  decode 0b11010000000000000000000000000000#32 = .ok .clrerr

/-! ## Encoding -/

/-- Decode and encode agree: no operand bit of any command is lost (R73 to R78). -/
def Obligations.DecodeOfEncode : Prop :=
  ∀ i : Instr, i.wellFormed = true ∧ decode (encode i) = .ok i

/-- A word that decodes to a command is that command's word, so the word an error records (R203) can be had from the
command: no two words stand for one command. -/
def Obligations.EncodeOfDecode : Prop :=
  ∀ (w : Word) (i : Instr), decode w = .ok i → encode i = w

/-- R84: `Decode` answers the row whose match the word has under its mask, and ILLEGAL when there is none; and at most
one row matches (R79). -/
def Obligations.DecodeFollowsOpcodeMap : Prop :=
  (∀ (w : Word) (i : Instr), decode w = .ok i →
    ∃ r ∈ opcodeRows, r.mnemonic = mnemonicOf i ∧ w &&& r.mask = r.matchBits) ∧
  (∀ (w : Word), ∀ r ∈ opcodeRows, w &&& r.mask = r.matchBits →
    ∃ i, decode w = .ok i ∧ mnemonicOf i = r.mnemonic) ∧
  (∀ (w : Word), ∀ r ∈ opcodeRows, ∀ r' ∈ opcodeRows,
    w &&& r.mask = r.matchBits → w &&& r'.mask = r'.matchBits → r = r')

/-- R81 and R82: reserved opcodes, UPD with `n = 3` and READ selectors 10 to 15 match no row and are illegal, whatever
the other bits. -/
def Obligations.ReservedEncodingsAreIllegal : Prop :=
  ∀ w : Word,
    (14 ≤ (w.extractLsb' 28 4).toNat → wellFormedWord w = false ∧ ∃ r, decode w = .error r) ∧
    (w.extractLsb' 28 4 = 0xA#4 → w.extractLsb' 16 2 = 3#2 → wellFormedWord w = false ∧ ∃ r, decode w = .error r) ∧
    (w.extractLsb' 28 4 = 0xC#4 → 10 ≤ (w.extractLsb' 24 4).toNat →
      wellFormedWord w = false ∧ ∃ r, decode w = .error r)

/-- R73: every field of every format at its bit position, as a number. -/
def Obligations.EncodingsAsNumbers : Prop :=
  ∀ (k c : Index) (w16 refin refout : Bool) (v : Half) (b0 b1 : Byte),
    (encode .nop).toNat = 0 ∧ (encode .clrerr).toNat = 0xD0000000 ∧
    (encode (.build k)).toNat = 0x50000000 + 2 ^ 24 * k.toNat ∧
    (encode (.free k)).toNat = 0x60000000 + 2 ^ 24 * k.toNat ∧
    (encode (.cfg k w16 refin refout)).toNat =
      0x10000000 + 2 ^ 24 * k.toNat + 4 * refout.toNat + 2 * refin.toNat + w16.toNat ∧
    (encode (.poly k v)).toNat = 0x20000000 + 2 ^ 24 * k.toNat + v.toNat ∧
    (encode (.init k v)).toNat = 0x30000000 + 2 ^ 24 * k.toNat + v.toNat ∧
    (encode (.xout k v)).toNat = 0x40000000 + 2 ^ 24 * k.toNat + v.toNat ∧
    (encode (.unbind c)).toNat = 0x80000000 + 2 ^ 24 * c.toNat ∧
    (encode (.reset c)).toNat = 0x90000000 + 2 ^ 24 * c.toNat ∧
    (encode (.sum c)).toNat = 0xB0000000 + 2 ^ 24 * c.toNat ∧
    (encode (.bind c k)).toNat = 0x70000000 + 2 ^ 24 * c.toNat + 2 ^ 20 * k.toNat ∧
    (encode (.upd0 c)).toNat = 0xA0000000 + 2 ^ 24 * c.toNat ∧
    (encode (.upd1 c b0)).toNat = 0xA0010000 + 2 ^ 24 * c.toNat + b0.toNat ∧
    (encode (.upd2 c b0 b1)).toNat = 0xA0020000 + 2 ^ 24 * c.toNat + 2 ^ 8 * b1.toNat + b0.toNat ∧
    (encode (.rdcrc c)).toNat = 0xC0000000 + 2 ^ 20 * c.toNat ∧
    (encode (.rdtab k b0)).toNat = 0xC1000000 + 2 ^ 20 * k.toNat + b0.toNat ∧
    (encode (.rdinfo c)).toNat = 0xC2000000 + 2 ^ 20 * c.toNat ∧
    (encode .rdstat).toNat = 0xC3000000 ∧ (encode .rderr).toNat = 0xC4000000 ∧
    (encode (.rdscfg k)).toNat = 0xC5000000 + 2 ^ 20 * k.toNat ∧
    (encode (.rdpoly k)).toNat = 0xC6000000 + 2 ^ 20 * k.toNat ∧
    (encode (.rdinit k)).toNat = 0xC7000000 + 2 ^ 20 * k.toNat ∧
    (encode (.rdxout k)).toNat = 0xC8000000 + 2 ^ 20 * k.toNat ∧
    (encode (.rdchst c)).toNat = 0xC9000000 + 2 ^ 20 * c.toNat

/-! ## Errors, over all commands -/

/-- R203, R204 and R205: a word raises the first error that applies in the order of R204, which is recorded with the word
as R203 says and changes nothing else; and a command to which none applies completes and records none, but for
CLRERR, which clears the record. -/
def Obligations.ErrorsAreOrderedRecordedPrecise : Prop :=
  (∀ (w : Word) (s : State) (r : Illegal), decode w = .error r →
    ∃ t, execute w s = .next t ∧ ErrorRecorded .illegal w s t ∧ OnlyErrorRecordChanged s t) ∧
  (∀ (w : Word) (i : Instr) (s : State), decode w = .ok i →
    (∀ e, raisedError i s = some e →
      ∃ t, execute w s = .next t ∧ ErrorRecorded e w s t ∧ OnlyErrorRecordChanged s t) ∧
    (raisedError i s = none → ∃ t, execute w s = .next t ∧ (i ≠ .clrerr → ErrorRecordSame s t)))

/-- R37: no command's behaviour depends on the error record. Whatever it holds, a command does the same to every slot,
every channel and RES; only RDSTAT and RDERR, which read the record, may give another RES. -/
def Obligations.CommandsDoNotDependOnErrorRecord : Prop :=
  ∀ (i : Instr) (s : State) (st : Status) (ec : Word),
    ∃ t u, exec i s = .next t ∧ exec i { s with status := st, errcmd := ec } = .next u ∧
      SlotsSame t u ∧ ChannelsSame t u ∧ (i ≠ .rdstat → i ≠ .rderr → u.res = t.res)

/-- R207: while `ERR = 1` no command but CLRERR changes ERR, ERRCODE or ERRCMD: the first error is kept, and CLRERR is the
only way back to `ERR = 0` short of block reset. -/
def Obligations.FirstErrorIsKept : Prop :=
  ∀ (i : Instr) (s t : State), s.status.err = true → exec i s = .next t → i ≠ .clrerr →
    t.status.err = true ∧ t.status.errcode = s.status.errcode ∧ t.errcmd = s.errcmd ∧
    (s.status.multi = true → t.status.multi = true)

/-! ## What only some commands may change, over all commands -/

/-- R51 and R52: a table changes only by BUILD of its slot, and a valid slot's table never does. For FREE of the slot both
clauses say that the freed table memory stays as it was: the model's choice (log 1), where R53 and R110 call its
contents unspecified. -/
def Obligations.TablesImmutableWhileValid : Prop :=
  ∀ (i : Instr) (s t : State) (k : Index), exec i s = .next t →
    ((s.slot k).valid = true → (t.slot k).tab = (s.slot k).tab) ∧
    (i ≠ .build k → (t.slot k).tab = (s.slot k).tab)

/-- R28: VALID is set only by BUILD and cleared only by FREE (block reset is no command). -/
def Obligations.ValidSetByBuildClearedByFree : Prop :=
  ∀ (i : Instr) (s t : State) (k : Index), exec i s = .next t →
    ((s.slot k).valid = false → (t.slot k).valid = true → i = .build k) ∧
    ((s.slot k).valid = true → (t.slot k).valid = false → i = .free k)

/-- R24 to R27: a Parameter Set's registers are written only by their own commands, and those of a valid slot by none. -/
def Obligations.ParametersWrittenOnlyByTheirCommands : Prop :=
  ∀ (i : Instr) (s t : State) (k : Index), exec i s = .next t →
    ((∀ w ri ro, i ≠ .cfg k w ri ro) → (t.slot k).scfg = (s.slot k).scfg) ∧
    ((∀ v, i ≠ .poly k v) → (t.slot k).poly = (s.slot k).poly) ∧
    ((∀ v, i ≠ .init k v) → (t.slot k).init = (s.slot k).init) ∧
    ((∀ v, i ≠ .xout k v) → (t.slot k).xout = (s.slot k).xout) ∧
    ((s.slot k).valid = true → (t.slot k).scfg = (s.slot k).scfg ∧ (t.slot k).poly = (s.slot k).poly ∧
      (t.slot k).init = (s.slot k).init ∧ (t.slot k).xout = (s.slot k).xout)

/-- R30 to R32: who writes BOUND, TSEL and CRC. -/
def Obligations.ChannelWrittenOnlyByEngineCommands : Prop :=
  ∀ (i : Instr) (s t : State) (c : Index), exec i s = .next t →
    ((s.channel c).bound = false → (t.channel c).bound = true → ∃ k, i = .bind c k) ∧
    ((s.channel c).bound = true → (t.channel c).bound = false → i = .unbind c) ∧
    ((t.channel c).tsel ≠ (s.channel c).tsel → (∃ k, i = .bind c k) ∨ i = .unbind c) ∧
    ((t.channel c).crc ≠ (s.channel c).crc →
      (∃ k, i = .bind c k) ∨ i = .unbind c ∨ i = .reset c ∨ (∃ b, i = .upd1 c b) ∨ ∃ b b', i = .upd2 c b b')

/-- R33: RES is written only by SUM and the ten READ commands, and by none that raises an error. -/
def Obligations.ResWrittenOnlyByResultCommands : Prop :=
  ∀ (i : Instr) (s t : State), exec i s = .next t →
    (mnemonicOf i ∉ ["SUM", "RDCRC", "RDTAB", "RDINFO", "RDSTAT", "RDERR", "RDSCFG", "RDPOLY", "RDINIT", "RDXOUT",
      "RDCHST"] → t.res = s.res) ∧
    (raisedError i s ≠ none → t.res = s.res)

/-- Every command completes (R58); none writes a slot or channel outside the build (R63, R88), or the configuration
(R22) or the host's side. That State has elements outside the build is the model's choice (log 2), and the pending
inputs, the index and the history as fields of State are too (log 3). -/
def Obligations.CommandsStayInsideTheBuild : Prop :=
  ∀ (i : Instr) (s : State), ∃ t, exec i s = .next t ∧ HostSideSame s t ∧
    (∀ k : Index, s.cfg.numTables ≤ k.toNat → t.slot k = s.slot k) ∧
    (∀ c : Index, s.cfg.numChannels ≤ c.toNat → t.channel c = s.channel c)

/-- R62: every command that succeeds, but UPD with bytes and BUILD, leaves on repetition the state the first one left;
BUILD repeated raises SLOT_LOCKED. -/
def Obligations.RepeatedCommandsAreIdempotent : Prop :=
  ∀ (i : Instr) (s t : State), raisedError i s = none → exec i s = .next t →
    ((∀ c b, i ≠ .upd1 c b) → (∀ c b b', i ≠ .upd2 c b b') → (∀ k, i ≠ .build k) → exec i t = .next t) ∧
    (∀ k, i = .build k → Rejects (.build k) t .slotLocked)

/-- R59: commands that name different channels commute in their effect on every channel's registers. -/
def Obligations.CommandsOnDifferentChannelsCommute : Prop :=
  ∀ (i j : Instr) (c d : Index) (s : State), channelOperand i = some c → channelOperand j = some d → c ≠ d →
    ∃ t u, runInstrs [i, j] s = .next t ∧ runInstrs [j, i] s = .next u ∧ ChannelsSame t u ∧ SlotsSame t u

/-! ## The table function and the fold -/

/-- R12: the bit reversal, bit by bit, its own inverse, and the relation of the two widths. -/
def Obligations.ReflectReversesBits : Prop :=
  (∀ (w : Width) (v : Half), fits w v = true →
    (∀ i, i < Width.bits w → (reflect w v).getLsbD i = v.getLsbD (Width.bits w - 1 - i)) ∧
    fits w (reflect w v) = true ∧ reflect w (reflect w v) = v) ∧
  (∀ i : Byte, reflect .w16 (i.setWidth 16) = reflect .w8 (i.setWidth 16) <<< 8) ∧
  (∀ i : Byte, reflect .w8 (i.setWidth 16) = (reflectByte i).setWidth 16)

/-- R102 items 1, 2 and 4: entry 0 is 0, every entry fits the width, and a zero polynomial gives a zero table. -/
def Obligations.TableEntriesZeroAndBounded : Prop :=
  ∀ (w : Width) (p : Half) (refin : Bool) (i : Byte),
    entryOf (genTable w p refin) 0 = 0 ∧ fits w (entryOf (genTable w p refin) i) = true ∧
    entryOf (genTable w 0 refin) i = 0

/-- R102 item 3: the table is linear over GF(2). -/
def Obligations.TableIsLinear : Prop :=
  ∀ (w : Width) (p : Half) (refin : Bool) (i j : Byte), fits w p = true →
    entryOf (genTable w p refin) (i ^^^ j) = entryOf (genTable w p refin) i ^^^ entryOf (genTable w p refin) j

/-- R102 items 5 and 6: the reflected table is the least-significant-bit-first form, and the reflection of the
unreflected table. -/
def Obligations.ReflectedTableForms : Prop :=
  ∀ (w : Width) (p : Half) (i : Byte), fits w p = true →
    entryOf (genTable w p true) i =
      repeatN (fun r => if r.getLsbD 0 then (r >>> 1) ^^^ reflect w p else r >>> 1) 8 (i.setWidth 16) ∧
    entryOf (genTable w p true) i = reflect w (entryOf (genTable w p false) (reflectByte i))

/-- R111 and R100: one Parameter Set built in two slots of two machines gives bit-identical tables, whatever INIT, XOUT
and REFOUT are. -/
def Obligations.EqualParametersGiveEqualTables : Prop :=
  ∀ (s s' t t' : State) (k k' : Index), raisedError (.build k) s = none → raisedError (.build k') s' = none →
    (s.slot k).scfg.w16 = (s'.slot k').scfg.w16 → (s.slot k).scfg.refin = (s'.slot k').scfg.refin →
    (s.slot k).poly = (s'.slot k').poly → exec (.build k) s = .next t → exec (.build k') s' = .next t' →
    (t.slot k).tab = (t'.slot k').tab

/-- R134: for width 8 both conventions read one entry; and the fold of a value below `2^w` stays below `2^w`. -/
def Obligations.FoldStaysInWidth : Prop :=
  ∀ (sl : Slot) (v : Half) (b : Byte), fits sl.width v = true → sl.tab = sl.generated →
    fits sl.width (sl.fold v b) = true ∧
    (sl.width = .w8 → sl.fold v b = sl.tabRead (v.setWidth 8 ^^^ b))

/-- R136: XOUT is applied last and never reflected; the register is reflected exactly when REFIN and REFOUT differ. The
checksum never exceeds the width (R138 item 5). -/
def Obligations.FinalReflectsThenXors : Prop :=
  ∀ (sl : Slot) (v : Half),
    fits sl.width (sl.final v) = true ∧
    (fits sl.width v = true → fits sl.width sl.xout = true →
      (sl.scfg.refin = sl.scfg.refout → sl.final v = v ^^^ sl.xout) ∧
      (sl.scfg.refin ≠ sl.scfg.refout → sl.final v = reflect sl.width v ^^^ sl.xout))

/-- R135 and R138 item 2: any two ways to cut one byte sequence into UPD commands end in one state, so the register and
every later SUM are the same. -/
def Obligations.FeedingIsAssociative : Prop :=
  ∀ (c : Index) (s : State) (xs ys : List Chunk), c.toNat < s.cfg.numChannels → (s.channel c).bound = true →
    xs.flatMap Chunk.bytes = ys.flatMap Chunk.bytes →
    ∃ t, runInstrs (xs.map (Chunk.instr c)) s = .next t ∧ runInstrs (ys.map (Chunk.instr c)) s = .next t ∧
      (t.channel c).crc = (s.slot (s.channel c).tsel).foldSeq (s.channel c).crc (xs.flatMap Chunk.bytes)

/-- R138 items 3 and 4: SUM right after BIND and right after RESET, whatever CRC the channel held before; RESET of a
channel bound to the slot leaves the very state BIND leaves, and right after BIND it changes nothing. -/
def Obligations.EmptyInputChecksum : Prop :=
  ∀ (c k : Index) (s : State), c.toNat < s.cfg.numChannels → k.toNat < s.cfg.numTables → (s.slot k).valid = true →
    (s.slot k).inRange = true →
    let checksum := (if (s.slot k).scfg.refout then reflect (s.slot k).width (s.slot k).init else (s.slot k).init) ^^^
      (s.slot k).xout
    (∃ t v, exec (.bind c k) s = .next t ∧ exec (.reset c) t = .next t ∧ exec (.sum c) t = .next v ∧
      v.res = checksum.setWidth 32) ∧
    ((s.channel c).bound = true → (s.channel c).tsel = k →
      ∃ t v, exec (.reset c) s = .next t ∧ exec (.bind c k) s = .next t ∧ exec (.sum c) t = .next v ∧
        v.res = checksum.setWidth 32)

/-- R137: the table-driven machine computes the bit-serial CRC. After BIND, or RESET of a channel bound to the slot, and
any UPD commands carrying the bytes in order, the register holds `Canon` in the slot's convention and SUM gives the
reflected-or-not `Canon` XOR XOUT. -/
def Obligations.ChecksumEqualsBitSerialCrc : Prop :=
  ∀ (c k : Index) (s : State) (start : Instr) (xs : List Chunk),
    c.toNat < s.cfg.numChannels → k.toNat < s.cfg.numTables → (s.slot k).valid = true → SlotInv s k →
    (start = .bind c k ∨ (start = .reset c ∧ (s.channel c).bound = true ∧ (s.channel c).tsel = k)) →
    let sl := s.slot k
    let canon := sl.canon (xs.flatMap Chunk.bytes)
    ∃ t u, runInstrs (start :: xs.map (Chunk.instr c)) s = .next t ∧
      (t.channel c).crc = (if sl.scfg.refin then reflect sl.width canon else canon) ∧
      exec (.sum c) t = .next u ∧
      u.res = ((if sl.scfg.refout then reflect sl.width canon else canon) ^^^ sl.xout).setWidth 32

/-! ## The host's functions -/

/-- R86 item 1: FEED's commands carry exactly its bytes, in order, and there are as few as two bytes a command allow. -/
def Obligations.FeedCarriesItsBytes : Prop :=
  ∀ (c : Index) (d : List Byte),
    (∃ xs : List Chunk, feed c d = xs.map (Chunk.instr c) ∧ xs.flatMap Chunk.bytes = d) ∧
    (feed c d).length = (if d = [] then 1 else (d.length + 1) / 2)

/-- R86 item 2 and R111: DEFTAB on an empty slot, with parameters that fit, builds the Parameter Set's table. -/
def Obligations.DeftabBuildsParameterSet : Prop :=
  ∀ (k : Index) (w16 refin refout : Bool) (p i x : Half) (s : State),
    k.toNat < s.cfg.numTables → (s.slot k).valid = false →
    (w16 = false → p.toNat < 256 ∧ i.toNat < 256 ∧ x.toNat < 256) →
    ∃ t, runInstrs (deftab k w16 p i refin refout x) s = .next t ∧
      t.slot k = { scfg := { w16 := w16, refin := refin, refout := refout }, poly := p, init := i, xout := x,
                   valid := true, tab := genTable (if w16 then .w16 else .w8) p refin } ∧
      OnlySlotChanged k s t

/-- R150: `write` always reports the count given; on a bound channel it reports no error and folds the bytes; on a channel
that is not there or not bound it reports the error STATUS shows. -/
def Obligations.HostWriteReportsCount : Prop :=
  ∀ (c : Index) (d : List Byte) (s : State),
    (∃ t e, hostWrite c d s = .next ((d.length, e), t) ∧ (e = none ↔ t.status = s.status)) ∧
    (c.toNat < s.cfg.numChannels → (s.channel c).bound = true →
      ∃ t, hostWrite c d s = .next ((d.length, none), t) ∧
        t.channel c = { s.channel c with crc := (s.slot (s.channel c).tsel).foldSeq (s.channel c).crc d }) ∧
    (s.status.err = false → c.toNat < s.cfg.numChannels → (s.channel c).bound = false →
      ∃ t e, hostWrite c d s = .next ((d.length, some e), t) ∧ e.err = true ∧ e.errcode = 8) ∧
    (s.status.err = false → s.cfg.numChannels ≤ c.toNat →
      ∃ t e, hostWrite c d s = .next ((d.length, some e), t) ∧ e.err = true ∧ e.errcode = 2)

/-- R151 and R152: `sum` appends the checksum's bytes, big-endian with the full low byte for width 16, one byte for width
8; `sum8` and `sum16` return it as a number; none changes the channel. R152 gives `sum8` for width 8 and `sum16` for
width 16; that each returns its bits of RES on a channel of the other width too is the model's choice (log 14). -/
def Obligations.HostSumSerializesChecksum : Prop :=
  ∀ (c : Index) (buffer : List Byte) (s : State), c.toNat < s.cfg.numChannels → (s.channel c).bound = true →
    let sl := s.slot (s.channel c).tsel
    let v := sl.final (s.channel c).crc
    (∃ t, hostSum c buffer s =
        .next (buffer ++ (if sl.scfg.w16 then [v.extractLsb' 8 8, v.extractLsb' 0 8] else [v.extractLsb' 0 8]), t) ∧
      ChannelsSame s t) ∧
    (∃ t, hostSum8 c s = .next (v.extractLsb' 0 8, t) ∧ ChannelsSame s t) ∧
    (∃ t, hostSum16 c s = .next (v, t) ∧ ChannelsSame s t)

/-- R153: `size` is WIDTH / 8, `blockSize` is 1, `reset` is the command RESET. -/
def Obligations.HostSizeBlockSizeReset : Prop :=
  ∀ (c : Index) (s : State), c.toNat < s.cfg.numChannels → (s.channel c).bound = true →
    (∃ t, hostSize c s = .next (if (s.slot (s.channel c).tsel).scfg.w16 then 2 else 1, t) ∧ ChannelsSame s t) ∧
    (∃ t, hostBlockSize c s = .next (1, t) ∧ ChannelsSame s t) ∧
    (∃ t u, hostReset c s = .next t ∧ exec (.reset c) s = .next u ∧ ChannelsSame u t ∧ SlotsSame u t)

/-- R85: every line of its table assembles, exactly when each operand is in its field's range, to one bus write of CMD
whose word is the number R73 to R79 give, the operands in their fields; any other operand is an assembly error. HRD
assembles to the read of RES. -/
def Obligations.AssemblerEmitsEncodedWords : Prop :=
  ∀ (s : State) (a b d e : Nat),
    LineEmits s .nop True 0 ∧
    LineEmits s (.cfg a b d e) (a < 16 ∧ (b = 8 ∨ b = 16) ∧ d < 2 ∧ e < 2)
      (0x10000000 + 2 ^ 24 * a + 4 * e + 2 * d + (if b = 16 then 1 else 0)) ∧
    LineEmits s (.poly a b) (a < 16 ∧ b < 65536) (0x20000000 + 2 ^ 24 * a + b) ∧
    LineEmits s (.init a b) (a < 16 ∧ b < 65536) (0x30000000 + 2 ^ 24 * a + b) ∧
    LineEmits s (.xout a b) (a < 16 ∧ b < 65536) (0x40000000 + 2 ^ 24 * a + b) ∧
    LineEmits s (.build a) (a < 16) (0x50000000 + 2 ^ 24 * a) ∧
    LineEmits s (.free a) (a < 16) (0x60000000 + 2 ^ 24 * a) ∧
    LineEmits s (.bind a b) (a < 16 ∧ b < 16) (0x70000000 + 2 ^ 24 * a + 2 ^ 20 * b) ∧
    LineEmits s (.unbind a) (a < 16) (0x80000000 + 2 ^ 24 * a) ∧
    LineEmits s (.reset a) (a < 16) (0x90000000 + 2 ^ 24 * a) ∧
    LineEmits s (.sum a) (a < 16) (0xB0000000 + 2 ^ 24 * a) ∧
    LineEmits s (.upd a) (a < 16) (0xA0000000 + 2 ^ 24 * a) ∧
    LineEmits s (.updOne a b) (a < 16 ∧ b < 256) (0xA0010000 + 2 ^ 24 * a + b) ∧
    LineEmits s (.updTwo a b d) (a < 16 ∧ b < 256 ∧ d < 256) (0xA0020000 + 2 ^ 24 * a + 2 ^ 8 * d + b) ∧
    LineEmits s (.rdcrc a) (a < 16) (0xC0000000 + 2 ^ 20 * a) ∧
    LineEmits s (.rdinfo a) (a < 16) (0xC2000000 + 2 ^ 20 * a) ∧
    LineEmits s (.rdchst a) (a < 16) (0xC9000000 + 2 ^ 20 * a) ∧
    LineEmits s (.rdtab a b) (a < 16 ∧ b < 256) (0xC1000000 + 2 ^ 20 * a + b) ∧
    LineEmits s (.rdscfg a) (a < 16) (0xC5000000 + 2 ^ 20 * a) ∧
    LineEmits s (.rdpoly a) (a < 16) (0xC6000000 + 2 ^ 20 * a) ∧
    LineEmits s (.rdinit a) (a < 16) (0xC7000000 + 2 ^ 20 * a) ∧
    LineEmits s (.rdxout a) (a < 16) (0xC8000000 + 2 ^ 20 * a) ∧
    LineEmits s .rdstat True 0xC3000000 ∧
    LineEmits s .rderr True 0xC4000000 ∧
    LineEmits s .clrerr True 0xD0000000 ∧
    AsmLine.hrd.assemble s = some [.read (s.cfg.base + 4) 32]

/-- R86: a FEED, DEFTAB or SUMRD line assembles to the host actions of the lines it expands to, in order, and is an
assembly error exactly when one of them is. -/
def Obligations.PseudoLinesEmitTheirExpansion : Prop :=
  ∀ (s : State) (c k w poly init ri ro xout : Nat) (d : List Nat),
    (AsmLine.feed c d).assemble s = assembleLines s (feedLines c d) ∧
    (AsmLine.deftab k w poly init ri ro xout).assemble s =
      assembleLines s [.cfg k w ri ro, .poly k poly, .init k init, .xout k xout, .build k] ∧
    (AsmLine.sumrd c).assemble s = assembleLines s [.sum c, .hrd]

/-! ## Invariants and indistinguishability -/

/-- The invariant holds after reset, in every configuration R6 and R7 allow. -/
def Obligations.ResetMeetsInvariant : Prop :=
  State.reset.Inv ∧ ∀ cfg : Config, cfg.Valid → (State.resetFor cfg).Inv

/-- R29, R31, R32, R34, R35, R50, R52: every step keeps the invariant, from every state that meets it. -/
def Obligations.StepKeepsInvariant : Prop :=
  ∀ s t : State, s.Inv → step s = .next t → t.Inv

/-- R38 and R53: the table memory of an empty slot is not observable. Two machines that differ at most in it go on so, in
every step, with the same registers, the same data returned to the host and the same refusals. So no statement can
depend on what the model puts there at reset or leaves there (log 1). -/
def Obligations.EmptyTablesAreUnobservable : Prop :=
  ∀ s t : State, s.Inv → Alike s t → OutcomesAlike (step s) (step t)

/-- The configuration is no step's to change (R22). -/
def Obligations.StepKeepsConfiguration : Prop :=
  ∀ s t : State, step s = .next t → t.cfg = s.cfg
end

