-- ==== Sys2Proof/Laws/Asm.lean ====
section
/-! SUPPORT. What the assembler can do with a line (spec/30_encoding.md R85, R86): one lemma for the lines of one command, and the unfolding of FEED's expansion two bytes at a time. -/

namespace Sys2Proof.Machine

/-- A line of one command emits the command's word exactly when the line is well formed. -/
theorem lineEmits_of_command {s : State} {l : AsmLine} {i : Instr} {ok : Prop} {word : Nat} (hread : l.readsRes = false)
    (hcommand : l.commands = [i]) (hok : l.wellFormed = true ↔ ok) (hword : ok → (encode i).toNat = word) :
    LineEmits s l ok word := by
  refine ⟨fun h => ⟨encode i, ?_, hword h⟩, fun h => ?_⟩
  · simp [AsmLine.assemble, hok.2 h, hread, hcommand, State.cmdWrite]
  · simp [AsmLine.assemble, mt hok.1 h]

@[simp] theorem feedLines_nil (c : Nat) : feedLines c [] = [.upd c] := by simp [feedLines]

@[simp] theorem feedLines_one (c b0 : Nat) : feedLines c [b0] = [.updOne c b0] := by simp [feedLines]

@[simp] theorem feedLines_two (c b0 b1 : Nat) : feedLines c [b0, b1] = [.updTwo c b0 b1] := by simp [feedLines]

/-- While more bytes follow, FEED's first command carries the first two. -/
theorem feedLines_cons_cons (c b0 b1 b2 : Nat) (rest : List Nat) :
    feedLines c (b0 :: b1 :: b2 :: rest) = .updTwo c b0 b1 :: feedLines c (b2 :: rest) := by
  have h : ((b0 :: b1 :: b2 :: rest).length + 1) / 2 = ((b2 :: rest).length + 1) / 2 + 1 := by simp; omega
  simp only [feedLines, h]
  simp [List.range_succ_eq_map, List.map_map]
  intro x _
  simp [show 2 * (x + 1) = 2 * x + 2 by omega]

end Sys2Proof.Machine
end

