-- ==== Sys2Proof/Laws/State.lean ====
section
/-! SUPPORT. What each update of the state does to each field, and to each slot and channel: one lemma per field per update, so that no proof unfolds an update. -/

namespace Sys2Proof.Machine

variable (s : State)

/-! ### `setSlot` -/

@[simp] theorem setSlot_cfg (k : Index) (v : Slot) : (s.setSlot k v).cfg = s.cfg := rfl
@[simp] theorem setSlot_channels (k : Index) (v : Slot) : (s.setSlot k v).channels = s.channels := rfl
@[simp] theorem setSlot_res (k : Index) (v : Slot) : (s.setSlot k v).res = s.res := rfl
@[simp] theorem setSlot_status (k : Index) (v : Slot) : (s.setSlot k v).status = s.status := rfl
@[simp] theorem setSlot_errcmd (k : Index) (v : Slot) : (s.setSlot k v).errcmd = s.errcmd := rfl
@[simp] theorem setSlot_pending (k : Index) (v : Slot) : (s.setSlot k v).pending = s.pending := rfl
@[simp] theorem setSlot_index (k : Index) (v : Slot) : (s.setSlot k v).index = s.index := rfl
@[simp] theorem setSlot_history (k : Index) (v : Slot) : (s.setSlot k v).history = s.history := rfl

/-! ### `setChannel` -/

@[simp] theorem setChannel_cfg (c : Index) (v : Channel) : (s.setChannel c v).cfg = s.cfg := rfl
@[simp] theorem setChannel_slots (c : Index) (v : Channel) : (s.setChannel c v).slots = s.slots := rfl
@[simp] theorem setChannel_res (c : Index) (v : Channel) : (s.setChannel c v).res = s.res := rfl
@[simp] theorem setChannel_status (c : Index) (v : Channel) : (s.setChannel c v).status = s.status := rfl
@[simp] theorem setChannel_errcmd (c : Index) (v : Channel) : (s.setChannel c v).errcmd = s.errcmd := rfl
@[simp] theorem setChannel_pending (c : Index) (v : Channel) : (s.setChannel c v).pending = s.pending := rfl
@[simp] theorem setChannel_index (c : Index) (v : Channel) : (s.setChannel c v).index = s.index := rfl
@[simp] theorem setChannel_history (c : Index) (v : Channel) : (s.setChannel c v).history = s.history := rfl

/-! ### `setRes` -/

@[simp] theorem setRes_cfg (v : Word) : (s.setRes v).cfg = s.cfg := rfl
@[simp] theorem setRes_slots (v : Word) : (s.setRes v).slots = s.slots := rfl
@[simp] theorem setRes_channels (v : Word) : (s.setRes v).channels = s.channels := rfl
@[simp] theorem setRes_res (v : Word) : (s.setRes v).res = v := rfl
@[simp] theorem setRes_status (v : Word) : (s.setRes v).status = s.status := rfl
@[simp] theorem setRes_errcmd (v : Word) : (s.setRes v).errcmd = s.errcmd := rfl
@[simp] theorem setRes_pending (v : Word) : (s.setRes v).pending = s.pending := rfl
@[simp] theorem setRes_index (v : Word) : (s.setRes v).index = s.index := rfl
@[simp] theorem setRes_history (v : Word) : (s.setRes v).history = s.history := rfl

/-! ### `recordError` -/

@[simp] theorem recordError_cfg (e : ErrorCode) (w : Word) : (s.recordError e w).cfg = s.cfg := rfl
@[simp] theorem recordError_slots (e : ErrorCode) (w : Word) : (s.recordError e w).slots = s.slots := rfl
@[simp] theorem recordError_channels (e : ErrorCode) (w : Word) : (s.recordError e w).channels = s.channels := rfl
@[simp] theorem recordError_res (e : ErrorCode) (w : Word) : (s.recordError e w).res = s.res := rfl
@[simp] theorem recordError_status (e : ErrorCode) (w : Word) : (s.recordError e w).status = s.status.record e := rfl
@[simp] theorem recordError_errcmd (e : ErrorCode) (w : Word) : (s.recordError e w).errcmd = if s.status.err then s.errcmd else w := rfl
@[simp] theorem recordError_pending (e : ErrorCode) (w : Word) : (s.recordError e w).pending = s.pending := rfl
@[simp] theorem recordError_index (e : ErrorCode) (w : Word) : (s.recordError e w).index = s.index := rfl
@[simp] theorem recordError_history (e : ErrorCode) (w : Word) : (s.recordError e w).history = s.history := rfl

/-! ### `clearErrors` -/

@[simp] theorem clearErrors_cfg : (s.clearErrors).cfg = s.cfg := rfl
@[simp] theorem clearErrors_slots : (s.clearErrors).slots = s.slots := rfl
@[simp] theorem clearErrors_channels : (s.clearErrors).channels = s.channels := rfl
@[simp] theorem clearErrors_res : (s.clearErrors).res = s.res := rfl
@[simp] theorem clearErrors_status : (s.clearErrors).status = Status.clear := rfl
@[simp] theorem clearErrors_errcmd : (s.clearErrors).errcmd = 0 := rfl
@[simp] theorem clearErrors_pending : (s.clearErrors).pending = s.pending := rfl
@[simp] theorem clearErrors_index : (s.clearErrors).index = s.index := rfl
@[simp] theorem clearErrors_history : (s.clearErrors).history = s.history := rfl

/-! ### `record` -/

@[simp] theorem record_cfg (a : BusAccess) (d : Option Word) : (s.record a d).cfg = s.cfg := rfl
@[simp] theorem record_slots (a : BusAccess) (d : Option Word) : (s.record a d).slots = s.slots := rfl
@[simp] theorem record_channels (a : BusAccess) (d : Option Word) : (s.record a d).channels = s.channels := rfl
@[simp] theorem record_res (a : BusAccess) (d : Option Word) : (s.record a d).res = s.res := rfl
@[simp] theorem record_status (a : BusAccess) (d : Option Word) : (s.record a d).status = s.status := rfl
@[simp] theorem record_errcmd (a : BusAccess) (d : Option Word) : (s.record a d).errcmd = s.errcmd := rfl
@[simp] theorem record_pending (a : BusAccess) (d : Option Word) : (s.record a d).pending = s.pending := rfl
@[simp] theorem record_index (a : BusAccess) (d : Option Word) : (s.record a d).index = s.index + 1 := rfl
@[simp] theorem record_history (a : BusAccess) (d : Option Word) : (s.record a d).history = s.history ++ [{ access := a, data := d }] := rfl

/-! ### `blockReset` -/

@[simp] theorem blockReset_cfg : (s.blockReset).cfg = s.cfg := rfl
@[simp] theorem blockReset_res : (s.blockReset).res = 0 := rfl
@[simp] theorem blockReset_status : (s.blockReset).status = Status.clear := rfl
@[simp] theorem blockReset_errcmd : (s.blockReset).errcmd = 0 := rfl
@[simp] theorem blockReset_pending : (s.blockReset).pending = s.pending := rfl
@[simp] theorem blockReset_index : (s.blockReset).index = 0 := rfl
@[simp] theorem blockReset_history : (s.blockReset).history = [] := rfl

/-! ### Slots and channels read after an update -/

@[simp] theorem slot_setSlot (k j : Index) (v : Slot) : (s.setSlot k v).slot j = if j = k then v else s.slot j := by
  simp only [State.slot, State.setSlot, Vector.getElem_set, BitVec.toNat_inj, eq_comm]

@[simp] theorem channel_setChannel (c j : Index) (v : Channel) :
    (s.setChannel c v).channel j = if j = c then v else s.channel j := by
  simp only [State.channel, State.setChannel, Vector.getElem_set, BitVec.toNat_inj, eq_comm]

@[simp] theorem channel_setSlot (j : Index) (k : Index) (v : Slot) : (s.setSlot k v).channel j = s.channel j := rfl
@[simp] theorem slot_setChannel (j : Index) (c : Index) (v : Channel) : (s.setChannel c v).slot j = s.slot j := rfl
@[simp] theorem slot_setRes (j : Index) (v : Word) : (s.setRes v).slot j = s.slot j := rfl
@[simp] theorem channel_setRes (j : Index) (v : Word) : (s.setRes v).channel j = s.channel j := rfl
@[simp] theorem slot_recordError (j : Index) (e : ErrorCode) (w : Word) : (s.recordError e w).slot j = s.slot j := rfl
@[simp] theorem channel_recordError (j : Index) (e : ErrorCode) (w : Word) : (s.recordError e w).channel j = s.channel j := rfl
@[simp] theorem slot_clearErrors (j : Index) : (s.clearErrors).slot j = s.slot j := rfl
@[simp] theorem channel_clearErrors (j : Index) : (s.clearErrors).channel j = s.channel j := rfl
@[simp] theorem slot_record (j : Index) (a : BusAccess) (d : Option Word) : (s.record a d).slot j = s.slot j := rfl
@[simp] theorem channel_record (j : Index) (a : BusAccess) (d : Option Word) : (s.record a d).channel j = s.channel j := rfl

@[simp] theorem slot_blockReset (j : Index) : s.blockReset.slot j = (s.slot j).blockReset := by
  simp [State.slot, State.blockReset]

@[simp] theorem channel_blockReset (j : Index) : s.blockReset.channel j = Channel.reset := by
  simp [State.channel, State.blockReset]

@[simp] theorem slot_resetFor (cfg : Config) (j : Index) : (State.resetFor cfg).slot j = Slot.reset := by
  simp [State.slot, State.resetFor]

@[simp] theorem channel_resetFor (cfg : Config) (j : Index) : (State.resetFor cfg).channel j = Channel.reset := by
  simp [State.channel, State.resetFor]

/-- A channel written twice holds the second value. -/
@[simp] theorem setChannel_setChannel (c : Index) (a b : Channel) :
    (s.setChannel c a).setChannel c b = s.setChannel c b := by
  simp [State.setChannel]

/-- A slot written twice holds the second value. -/
@[simp] theorem setSlot_setSlot (k : Index) (a b : Slot) : (s.setSlot k a).setSlot k b = s.setSlot k b := by
  simp [State.setSlot]

/-- Writing back what a channel holds changes nothing. -/
@[simp] theorem setChannel_self (c : Index) : s.setChannel c (s.channel c) = s := by
  simp [State.setChannel, State.channel]

/-- `USERS(s)` is positive exactly when a channel of the block is bound to the slot (R36). -/
theorem users_pos (k : Index) :
    0 < s.users k ↔
      ∃ c : Index, c.toNat < s.cfg.numChannels ∧ (s.channel c).bound = true ∧ (s.channel c).tsel = k := by
  simp only [State.users, List.countP_pos_iff, List.mem_finRange, true_and, Bool.and_eq_true, decide_eq_true_eq]
  constructor
  · rintro ⟨c, ⟨hc, hb⟩, ht⟩
    exact ⟨BitVec.ofFin c, hc, hb, ht⟩
  · rintro ⟨c, hc, hb, ht⟩
    exact ⟨c.toFin, ⟨hc, hb⟩, ht⟩

end Sys2Proof.Machine
end

