-- ==== Sys2Proof/Laws/Bus.lean ====
section
/-! SUPPORT. What the bus, the step and the sequencing of host actions can do: one lemma per case. -/

namespace Sys2Proof.Machine

/-- A sequence has a next value exactly when both its parts do. -/
theorem andThen_next {α β : Type} {r : Host.Outcome α Fault Refusal} {f : α → Host.Outcome β Fault Refusal} {b : β} :
    andThen r f = .next b ↔ ∃ a, r = .next a ∧ f a = .next b := by
  cases r <;> simp [andThen]

theorem execute_of_ok {w : Word} {i : Instr} (h : decode w = .ok i) (s : State) : execute w s = exec i s := by
  simp [execute, h]

theorem execute_of_error {w : Word} {r : Illegal} (h : decode w = .error r) (s : State) :
    execute w s = .next (s.recordError .illegal w) := by
  simp [execute, h, raise]

/-- The register a bus access reaches, when it reaches one: a 32-bit access at offset 0 or 4. -/
theorem busRegister_ok {cfg : Config} {addr bits : Nat} {g : BusRegister} :
    busRegister cfg addr bits = .ok g ↔
      bits = 32 ∧ ((addr = cfg.base ∧ g = .cmd) ∨ (addr = cfg.base + 4 ∧ g = .res)) := by
  unfold busRegister
  repeat' split
  all_goals cases g <;> simp <;> omega

/-- An access that reaches no register is refused, whatever its direction. -/
theorem busRegister_error {cfg : Config} {addr bits : Nat}
    (h : ¬ (bits = 32 ∧ (addr = cfg.base ∨ addr = cfg.base + 4))) : ∃ r, busRegister cfg addr bits = .error r := by
  cases hb : busRegister cfg addr bits with
  | error r => exact ⟨r, rfl⟩
  | ok g => exact absurd (busRegister_ok.1 hb) (by tauto)

/-- The host's write of a command word executes it. -/
theorem hostAccess_cmdWrite (s : State) (w : Word) :
    hostAccess (s.cmdWrite w) s = execute w (s.record (s.cmdWrite w) none) := by
  have h : busRegister s.cfg s.cfg.base 32 = .ok .cmd := busRegister_ok.2 (by simp)
  simp [hostAccess, State.cmdWrite, h]

/-- The host's read of RES returns it. -/
theorem hostAccess_resRead (s : State) : hostAccess s.resRead s = .next (s.record s.resRead (some s.res)) := by
  have h : busRegister s.cfg (s.cfg.base + 4) 32 = .ok .res := busRegister_ok.2 (by simp)
  simp [hostAccess, State.resRead, h]

theorem hostReadRes_eq (s : State) : hostReadRes s = .next (s.res, s.record s.resRead (some s.res)) := by
  simp [hostReadRes, hostAccess_resRead, andThen]

theorem step_of_access {s : State} {a : BusAccess} {rest : List HostInput} (h : s.pending = .access a :: rest) :
    step s = hostAccess a { s with pending := rest } := by
  simp [step, stepInput, h, performInput]

theorem step_of_blockReset {s : State} {rest : List HostInput} (h : s.pending = .blockReset :: rest) :
    step s = .next { s with pending := rest }.blockReset := by
  simp [step, stepInput, h, performInput]

/-- The step after `withFetchWord` executes the word it was given. -/
theorem step_withFetchWord (s : State) (nbits w : Nat) :
    step (s.withFetchWord nbits w) =
      execute (tableWord nbits w) (s.record (s.cmdWrite (tableWord nbits w)) none) := by
  rw [step_of_access (s := s.withFetchWord nbits w) (rest := s.pending) rfl]
  exact hostAccess_cmdWrite s (tableWord nbits w)

end Sys2Proof.Machine
end

