-- ==== Sys2Proof/Laws/Decode.lean ====
section
/-! SUPPORT. The decoder's shared pieces: when a row is accepted, and what reserved bits at 0 say of the word. -/

namespace Sys2Proof

/-- A row is accepted exactly when its reserved bits are 0. -/
@[simp] theorem ifReservedZero_eq_ok {ok : Bool} {i j : Instr} : ifReservedZero ok i = .ok j ↔ ok = true ∧ i = j := by
  cases ok <;> simp [ifReservedZero]

/-- `len` bits from `lo` are 0: each of them is. -/
theorem zeroBits_iff (w : Word) (lo len : Nat) :
    zeroBits w lo len = true ↔ ∀ n, n < len → w.getLsbD (lo + n) = false := by
  rw [zeroBits, beq_iff_eq]
  constructor
  · intro h n hn
    have := congrArg (fun v => BitVec.getLsbD v n) h
    simpa [hn] using this
  · intro h
    apply BitVec.eq_of_getLsbD_eq
    intro n hn
    simp [hn, h n hn]

/-- What a match against a row says of a bit field: where the mask covers the field, the field is the match's (R79). -/
theorem extractLsb'_of_match {w m v : Word} (h : w &&& m = v) (lo len : Nat)
    (hm : m.extractLsb' lo len = BitVec.allOnes len) : w.extractLsb' lo len = v.extractLsb' lo len := by
  rw [← h, BitVec.extractLsb'_and, hm, BitVec.and_allOnes]

/-- The opcode of a word that matches a row (R71, R79). -/
theorem opField_of_match {w m v : Word} (h : w &&& m = v) (hm : opField m = 0xF#4) : opField w = opField v :=
  extractLsb'_of_match h 28 4 hm

/-- The unit field of a word that matches a row whose mask covers it (R72, R79). -/
theorem unitField_of_match {w m v : Word} (h : w &&& m = v) (hm : unitField m = 0xF#4) : unitField w = unitField v :=
  extractLsb'_of_match h 24 4 hm

/-- The reserved bits of a word that matches a row are 0 (R80). -/
theorem zeroBits_of_match {w m v : Word} (h : w &&& m = v) {lo len : Nat}
    (hm : m.extractLsb' lo len = BitVec.allOnes len) (hv : v.extractLsb' lo len = 0#len) :
    zeroBits w lo len = true := by
  rw [zeroBits, beq_iff_eq, extractLsb'_of_match h lo len hm, hv]

/-- Bit `i` of a field placed in a word. -/
theorem getLsbD_fieldAt {n : Nat} (v : BitVec n) (lo i : Nat) :
    (fieldAt v lo).getLsbD i = (decide (i < 32) && (decide (lo ≤ i) && v.getLsbD (i - lo))) := by
  simp only [fieldAt, BitVec.getLsbD_shiftLeft, BitVec.getLsbD_setWidth]
  by_cases h : i < lo
  · simp [h, Nat.not_le.2 h]
  · by_cases h32 : i < 32
    · simp [h, h32, Nat.not_lt.1 h, show i - lo < 32 by omega]
    · simp [h32]

/-- A field reads back as the value placed in it. -/
@[simp] theorem extract_fieldAt_self {n : Nat} (v : BitVec n) (lo : Nat) (h : lo + n ≤ 32) :
    (fieldAt v lo).extractLsb' lo n = v := by
  apply BitVec.eq_of_getLsbD_eq
  intro i hi
  rw [BitVec.getLsbD_extractLsb', getLsbD_fieldAt]
  simp [hi, show lo + i < 32 by omega]

/-- A field placed elsewhere leaves the bits at 0. -/
theorem extract_fieldAt_disjoint {n : Nat} (v : BitVec n) (at_ lo len : Nat) (h : lo + len ≤ at_ ∨ at_ + n ≤ lo) :
    (fieldAt v at_).extractLsb' lo len = 0#len := by
  apply BitVec.eq_of_getLsbD_eq
  intro i hi
  rcases h with h | h
  · simp [getLsbD_fieldAt, show ¬ at_ ≤ lo + i by omega]
  · simp [getLsbD_fieldAt, BitVec.getLsbD_of_ge v (lo + i - at_) (by omega)]

end Sys2Proof
end

