-- ==== Sys2Proof/Laws/Ops.lean ====
section
/-! SUPPORT. One lemma per shared operation, that says everything it can do: the operand forms, errors, bit operations, tables and the fold. -/

namespace Sys2Proof.Machine

/-! ### Errors -/

theorem raise_eq (e : ErrorCode) (w : Word) (s : State) : raise e w s = .next (s.recordError e w) := rfl

theorem readBack_eq (s : State) (v : Word) : readBack s v = .next (s.setRes v) := rfl

/-- Recording an error sets ERR, whatever was recorded before. -/
@[simp] theorem record_err (st : Status) (e : ErrorCode) : (st.record e).err = true := by
  cases h : st.err <;> simp [Status.record, h]

/-- Every code is one of 1 to 8 (R201). -/
theorem code_range (e : ErrorCode) : 1 ≤ e.code.toNat ∧ e.code.toNat ≤ 8 := by
  cases e <;> decide

/-! ### Operand forms: each answers what its continuation answers, or a rejection -/

section
variable {k c : Index} {w : Word} {s t : State}

theorem withSlot_next {f : Slot → Result} :
    withSlot k w s f = .next t ↔
      (k.toNat < s.cfg.numTables ∧ f (s.slot k) = .next t) ∨
      (¬ k.toNat < s.cfg.numTables ∧ s.recordError .badSlot w = t) := by
  unfold withSlot
  split <;> simp_all [raise_eq]

theorem withEmptySlot_next {f : Slot → Result} :
    withEmptySlot k w s f = .next t ↔
      (k.toNat < s.cfg.numTables ∧ (s.slot k).valid = false ∧ f (s.slot k) = .next t) ∨
      (k.toNat < s.cfg.numTables ∧ (s.slot k).valid = true ∧ s.recordError .slotLocked w = t) ∨
      (¬ k.toNat < s.cfg.numTables ∧ s.recordError .badSlot w = t) := by
  cases h : (s.slot k).valid <;> simp [withEmptySlot, withSlot_next, raise_eq, h]

theorem withValidSlot_next {f : Slot → Result} :
    withValidSlot k w s f = .next t ↔
      (k.toNat < s.cfg.numTables ∧ (s.slot k).valid = true ∧ f (s.slot k) = .next t) ∨
      (k.toNat < s.cfg.numTables ∧ (s.slot k).valid = false ∧ s.recordError .slotEmpty w = t) ∨
      (¬ k.toNat < s.cfg.numTables ∧ s.recordError .badSlot w = t) := by
  cases h : (s.slot k).valid <;> simp [withValidSlot, withSlot_next, raise_eq, h]

theorem withChannel_next {f : Channel → Result} :
    withChannel c w s f = .next t ↔
      (c.toNat < s.cfg.numChannels ∧ f (s.channel c) = .next t) ∨
      (¬ c.toNat < s.cfg.numChannels ∧ s.recordError .badChannel w = t) := by
  unfold withChannel
  split <;> simp_all [raise_eq]

theorem withEngine_next {f : Channel → Slot → Result} :
    withEngine c w s f = .next t ↔
      (c.toNat < s.cfg.numChannels ∧ (s.channel c).bound = true ∧
        f (s.channel c) (s.slot (s.channel c).tsel) = .next t) ∨
      (c.toNat < s.cfg.numChannels ∧ (s.channel c).bound = false ∧ s.recordError .unbound w = t) ∨
      (¬ c.toNat < s.cfg.numChannels ∧ s.recordError .badChannel w = t) := by
  cases h : (s.channel c).bound <;> simp [withEngine, withChannel_next, raise_eq, h]

end

/-! ### Bit operations -/

theorem fits_iff (w : Width) (v : Half) : fits w v = true ↔ v.toNat < 2 ^ Width.bits w := by
  simp [fits]

/-- Every 16-bit value fits width 16 (R103). -/
@[simp] theorem fits_w16 (v : Half) : fits .w16 v = true := by
  have := v.isLt
  simpa [fits_iff, Width.bits] using this

/-- The low `w` bits are kept, the others are 0 (R11). -/
theorem mask_toNat (w : Width) (v : Half) : (mask w v).toNat = v.toNat % 2 ^ Width.bits w := by
  cases w
  · simpa [mask, Width.bits] using Nat.and_two_pow_sub_one_eq_mod v.toNat 8
  · simpa [mask, Width.bits] using Nat.and_two_pow_sub_one_eq_mod v.toNat 16

theorem mask_getLsbD (w : Width) (v : Half) (i : Nat) :
    (mask w v).getLsbD i = (decide (i < Width.bits w) && v.getLsbD i) := by
  rw [BitVec.getLsbD, mask_toNat, Nat.testBit_mod_two_pow]
  rfl

@[simp] theorem fits_mask (w : Width) (v : Half) : fits w (mask w v) = true := by
  rw [fits_iff, mask_toNat]
  exact Nat.mod_lt _ (by positivity)

/-- A value that fits is its own mask. -/
theorem mask_of_fits {w : Width} {v : Half} (h : fits w v = true) : mask w v = v := by
  apply BitVec.eq_of_toNat_eq
  rw [mask_toNat, Nat.mod_eq_of_lt ((fits_iff w v).1 h)]

/-- Masking distributes over XOR. -/
theorem mask_xor (w : Width) (a b : Half) : mask w (a ^^^ b) = mask w a ^^^ mask w b := by
  apply BitVec.eq_of_getLsbD_eq
  intro i _
  simp only [mask_getLsbD, BitVec.getLsbD_xor]
  cases decide (i < Width.bits w) <;> simp

/-- `reflect_w(v)[i] = v[w-1-i]` (R12). -/
theorem reflect_getLsbD (w : Width) (v : Half) (i : Nat) (hi : i < Width.bits w) :
    (reflect w v).getLsbD i = v.getLsbD (Width.bits w - 1 - i) := by
  cases w
  · have h8 : i < 8 := hi
    rw [reflect, BitVec.getLsbD_setWidth, BitVec.getLsbD_reverse, BitVec.getMsbD_eq_getLsbD]
    simp [Width.bits, h8, show i < 16 by omega, show 7 - i < 8 by omega]
  · have h16 : i < 16 := hi
    rw [reflect, BitVec.getLsbD_reverse, BitVec.getMsbD_eq_getLsbD]
    simp [Width.bits, h16]

/-! ### Tables -/

/-- Entry `i` of a generated table (R101). -/
@[simp] theorem entryOf_genTable (w : Width) (p : Half) (refin : Bool) (i : Byte) :
    entryOf (genTable w p refin) i = genEntry w p refin i := by
  simp [entryOf, genTable]

theorem fits_divStep (w : Width) (p r : Half) : fits w (divStep w p r) = true := by
  unfold divStep
  split <;> simp

/-! ### The fold of a byte sequence (R135) -/

@[simp] theorem foldSeq_nil (sl : Slot) (v : Half) : sl.foldSeq v [] = v := rfl

@[simp] theorem foldSeq_cons (sl : Slot) (v : Half) (b : Byte) (d : List Byte) :
    sl.foldSeq v (b :: d) = sl.foldSeq (sl.fold v b) d := rfl

end Sys2Proof.Machine
end

