-- ==== Sys2Proof/Laws/PerInstr.lean ====
section
/-! SUPPORT. The family EncodesItsRow: the word of every command matches the match and mask of its own row of the opcode map (spec/30_encoding.md R79). -/

namespace Sys2Proof.Laws.EncodesItsRow

/-- The opcode map has a row of the command's mnemonic, and the command's word matches it. -/
def Statement (i : Instr) : Prop :=
  ∃ r ∈ opcodeRows, r.mnemonic = mnemonicOf i ∧ r.matchesWord (encode i) = true

/-- A row of the map that the word matches, given by its place in the map. -/
theorem of_row {i : Instr} (n : Nat) (hn : n < opcodeRows.length) (hm : opcodeRows[n].mnemonic = mnemonicOf i)
    (hw : encode i &&& opcodeRows[n].mask = opcodeRows[n].matchBits) : Statement i :=
  ⟨opcodeRows[n], List.getElem_mem hn, hm, by simpa [OpcodeRow.matchesWord] using hw⟩

theorem nop : Statement (.nop) :=
  of_row 0 (by decide) rfl (by
    apply BitVec.eq_of_getLsbD_eq
    intro n hn
    simp only [encode, formatUnit, BitVec.getLsbD_and, BitVec.getLsbD_or, getLsbD_fieldAt]
    interval_cases n <;> simp [opcodeRows, opcodeRowsLow])

theorem cfg (k : Index) (w16 : Bool) (refin : Bool) (refout : Bool) : Statement (.cfg k w16 refin refout) :=
  of_row 1 (by decide) rfl (by
    apply BitVec.eq_of_getLsbD_eq
    intro n hn
    simp only [encode, formatSF, formatUnit, BitVec.getLsbD_and, BitVec.getLsbD_or, getLsbD_fieldAt]
    interval_cases n <;> simp [opcodeRows, opcodeRowsLow])

theorem poly (k : Index) (imm16 : Half) : Statement (.poly k imm16) :=
  of_row 2 (by decide) rfl (by
    apply BitVec.eq_of_getLsbD_eq
    intro n hn
    simp only [encode, formatSI, formatUnit, BitVec.getLsbD_and, BitVec.getLsbD_or, getLsbD_fieldAt]
    interval_cases n <;> simp [opcodeRows, opcodeRowsLow])

theorem init (k : Index) (imm16 : Half) : Statement (.init k imm16) :=
  of_row 3 (by decide) rfl (by
    apply BitVec.eq_of_getLsbD_eq
    intro n hn
    simp only [encode, formatSI, formatUnit, BitVec.getLsbD_and, BitVec.getLsbD_or, getLsbD_fieldAt]
    interval_cases n <;> simp [opcodeRows, opcodeRowsLow])

theorem xout (k : Index) (imm16 : Half) : Statement (.xout k imm16) :=
  of_row 4 (by decide) rfl (by
    apply BitVec.eq_of_getLsbD_eq
    intro n hn
    simp only [encode, formatSI, formatUnit, BitVec.getLsbD_and, BitVec.getLsbD_or, getLsbD_fieldAt]
    interval_cases n <;> simp [opcodeRows, opcodeRowsLow])

theorem build (k : Index) : Statement (.build k) :=
  of_row 5 (by decide) rfl (by
    apply BitVec.eq_of_getLsbD_eq
    intro n hn
    simp only [encode, formatUnit, BitVec.getLsbD_and, BitVec.getLsbD_or, getLsbD_fieldAt]
    interval_cases n <;> simp [opcodeRows, opcodeRowsLow])

theorem free (k : Index) : Statement (.free k) :=
  of_row 6 (by decide) rfl (by
    apply BitVec.eq_of_getLsbD_eq
    intro n hn
    simp only [encode, formatUnit, BitVec.getLsbD_and, BitVec.getLsbD_or, getLsbD_fieldAt]
    interval_cases n <;> simp [opcodeRows, opcodeRowsLow])

theorem bind (c : Index) (k : Index) : Statement (.bind c k) :=
  of_row 7 (by decide) rfl (by
    apply BitVec.eq_of_getLsbD_eq
    intro n hn
    simp only [encode, formatCS, formatUnit, BitVec.getLsbD_and, BitVec.getLsbD_or, getLsbD_fieldAt]
    interval_cases n <;> simp [opcodeRows, opcodeRowsLow])

theorem unbind (c : Index) : Statement (.unbind c) :=
  of_row 8 (by decide) rfl (by
    apply BitVec.eq_of_getLsbD_eq
    intro n hn
    simp only [encode, formatUnit, BitVec.getLsbD_and, BitVec.getLsbD_or, getLsbD_fieldAt]
    interval_cases n <;> simp [opcodeRows, opcodeRowsLow])

theorem reset (c : Index) : Statement (.reset c) :=
  of_row 9 (by decide) rfl (by
    apply BitVec.eq_of_getLsbD_eq
    intro n hn
    simp only [encode, formatUnit, BitVec.getLsbD_and, BitVec.getLsbD_or, getLsbD_fieldAt]
    interval_cases n <;> simp [opcodeRows, opcodeRowsLow])

theorem upd0 (c : Index) : Statement (.upd0 c) :=
  of_row 10 (by decide) rfl (by
    apply BitVec.eq_of_getLsbD_eq
    intro n hn
    simp only [encode, formatCD, formatUnit, BitVec.getLsbD_and, BitVec.getLsbD_or, getLsbD_fieldAt]
    interval_cases n <;> simp [opcodeRows, opcodeRowsLow, opcodeRowsHigh])

theorem upd1 (c : Index) (b0 : Byte) : Statement (.upd1 c b0) :=
  of_row 11 (by decide) rfl (by
    apply BitVec.eq_of_getLsbD_eq
    intro n hn
    simp only [encode, formatCD, formatUnit, BitVec.getLsbD_and, BitVec.getLsbD_or, getLsbD_fieldAt]
    interval_cases n <;> simp [opcodeRows, opcodeRowsLow, opcodeRowsHigh])

theorem upd2 (c : Index) (b0 : Byte) (b1 : Byte) : Statement (.upd2 c b0 b1) :=
  of_row 12 (by decide) rfl (by
    apply BitVec.eq_of_getLsbD_eq
    intro n hn
    simp only [encode, formatCD, formatUnit, BitVec.getLsbD_and, BitVec.getLsbD_or, getLsbD_fieldAt]
    interval_cases n <;> simp [opcodeRows, opcodeRowsLow, opcodeRowsHigh])

theorem sum (c : Index) : Statement (.sum c) :=
  of_row 13 (by decide) rfl (by
    apply BitVec.eq_of_getLsbD_eq
    intro n hn
    simp only [encode, formatUnit, BitVec.getLsbD_and, BitVec.getLsbD_or, getLsbD_fieldAt]
    interval_cases n <;> simp [opcodeRows, opcodeRowsLow, opcodeRowsHigh])

theorem rdcrc (u : Index) : Statement (.rdcrc u) :=
  of_row 15 (by decide) rfl (by
    apply BitVec.eq_of_getLsbD_eq
    intro n hn
    simp only [encode, formatR, formatUnit, BitVec.getLsbD_and, BitVec.getLsbD_or, getLsbD_fieldAt]
    interval_cases n <;> simp [opcodeRows, opcodeRowsLow, opcodeRowsHigh, opcodeRowsRead])

theorem rdtab (u : Index) (idx : Byte) : Statement (.rdtab u idx) :=
  of_row 16 (by decide) rfl (by
    apply BitVec.eq_of_getLsbD_eq
    intro n hn
    simp only [encode, formatR, formatUnit, BitVec.getLsbD_and, BitVec.getLsbD_or, getLsbD_fieldAt]
    interval_cases n <;> simp [opcodeRows, opcodeRowsLow, opcodeRowsHigh, opcodeRowsRead])

theorem rdinfo (u : Index) : Statement (.rdinfo u) :=
  of_row 17 (by decide) rfl (by
    apply BitVec.eq_of_getLsbD_eq
    intro n hn
    simp only [encode, formatR, formatUnit, BitVec.getLsbD_and, BitVec.getLsbD_or, getLsbD_fieldAt]
    interval_cases n <;> simp [opcodeRows, opcodeRowsLow, opcodeRowsHigh, opcodeRowsRead])

theorem rdstat : Statement (.rdstat) :=
  of_row 18 (by decide) rfl (by
    apply BitVec.eq_of_getLsbD_eq
    intro n hn
    simp only [encode, formatR, formatUnit, BitVec.getLsbD_and, BitVec.getLsbD_or, getLsbD_fieldAt]
    interval_cases n <;> simp [opcodeRows, opcodeRowsLow, opcodeRowsHigh, opcodeRowsRead])

theorem rderr : Statement (.rderr) :=
  of_row 19 (by decide) rfl (by
    apply BitVec.eq_of_getLsbD_eq
    intro n hn
    simp only [encode, formatR, formatUnit, BitVec.getLsbD_and, BitVec.getLsbD_or, getLsbD_fieldAt]
    interval_cases n <;> simp [opcodeRows, opcodeRowsLow, opcodeRowsHigh, opcodeRowsRead])

theorem rdscfg (u : Index) : Statement (.rdscfg u) :=
  of_row 20 (by decide) rfl (by
    apply BitVec.eq_of_getLsbD_eq
    intro n hn
    simp only [encode, formatR, formatUnit, BitVec.getLsbD_and, BitVec.getLsbD_or, getLsbD_fieldAt]
    interval_cases n <;> simp [opcodeRows, opcodeRowsLow, opcodeRowsHigh, opcodeRowsRead])

theorem rdpoly (u : Index) : Statement (.rdpoly u) :=
  of_row 21 (by decide) rfl (by
    apply BitVec.eq_of_getLsbD_eq
    intro n hn
    simp only [encode, formatR, formatUnit, BitVec.getLsbD_and, BitVec.getLsbD_or, getLsbD_fieldAt]
    interval_cases n <;> simp [opcodeRows, opcodeRowsLow, opcodeRowsHigh, opcodeRowsRead])

theorem rdinit (u : Index) : Statement (.rdinit u) :=
  of_row 22 (by decide) rfl (by
    apply BitVec.eq_of_getLsbD_eq
    intro n hn
    simp only [encode, formatR, formatUnit, BitVec.getLsbD_and, BitVec.getLsbD_or, getLsbD_fieldAt]
    interval_cases n <;> simp [opcodeRows, opcodeRowsLow, opcodeRowsHigh, opcodeRowsRead])

theorem rdxout (u : Index) : Statement (.rdxout u) :=
  of_row 23 (by decide) rfl (by
    apply BitVec.eq_of_getLsbD_eq
    intro n hn
    simp only [encode, formatR, formatUnit, BitVec.getLsbD_and, BitVec.getLsbD_or, getLsbD_fieldAt]
    interval_cases n <;> simp [opcodeRows, opcodeRowsLow, opcodeRowsHigh, opcodeRowsRead])

theorem rdchst (u : Index) : Statement (.rdchst u) :=
  of_row 24 (by decide) rfl (by
    apply BitVec.eq_of_getLsbD_eq
    intro n hn
    simp only [encode, formatR, formatUnit, BitVec.getLsbD_and, BitVec.getLsbD_or, getLsbD_fieldAt]
    interval_cases n <;> simp [opcodeRows, opcodeRowsLow, opcodeRowsHigh, opcodeRowsRead])

theorem clrerr : Statement (.clrerr) :=
  of_row 14 (by decide) rfl (by
    apply BitVec.eq_of_getLsbD_eq
    intro n hn
    simp only [encode, formatUnit, BitVec.getLsbD_and, BitVec.getLsbD_or, getLsbD_fieldAt]
    interval_cases n <;> simp [opcodeRows, opcodeRowsLow, opcodeRowsHigh])

end Sys2Proof.Laws.EncodesItsRow
end

