-- ==== Sys2Proof/Tests/Slice0.lean ====
section
/-! SUPPORT. Tests of the model on the vectors of spec/95_test_vectors.md and the examples of the rules, the well-formedness smoke tests, and for each statement with hypotheses a witness that meets them. -/

set_option Elab.async false

namespace Sys2Proof.Tests

open Sys2Proof Sys2Proof.Machine

/-! ## Small states -/

/-- A built slot. -/
def built (w16 refin refout : Bool) (p i x : Half) : Slot :=
  { scfg := { w16 := w16, refin := refin, refout := refout }, poly := p, init := i, xout := x, valid := true,
    tab := genTable (if w16 then .w16 else .w8) p refin }

/-- CRC-16/XMODEM, CRC-16/MODBUS, CRC-8 (95_test_vectors.md L1.1). -/
def xmodem : Slot := built true false false 0x1021 0 0
def modbus : Slot := built true true true 0x8005 0xFFFF 0
def crc8 : Slot := built false false false 0x07 0 0

/-- Slot 0 is empty with a polynomial too wide for width 8, slot 1 is MODBUS, slot 3 XMODEM; channel 2 is bound to slot 1,
channel 3 to slot 3. -/
def demo : State :=
  ((((State.reset.setSlot 0 { Slot.reset with poly := 0x0107 }).setSlot 1 modbus).setSlot 3 xmodem).setChannel 2
    { bound := true, tsel := 1, crc := 0xFFFF }).setChannel 3 { bound := true, tsel := 3, crc := 0 }

/-- `demo` with an error recorded. -/
def failed : State := demo.recordError .paramRange 0x52000000

/-- The next state, or the same one if there is none. -/
def nextOf (r : Result) (s : State) : State :=
  match r with
  | .next t => t
  | _ => s

/-- There is a next state. -/
def isNext (r : Result) : Bool :=
  match r with
  | .next _ => true
  | _ => false

theorem eq_nextOf {r : Result} (s : State) (h : isNext r = true) : r = .next (nextOf r s) := by
  cases r <;> simp_all [isNext, nextOf]

/-- The state after one command. -/
def after (i : Instr) (s : State) : State := nextOf (exec i s) s

/-- The state after the host writes one command word. -/
def afterWord (w : Nat) (s : State) : State := nextOf (step (s.withFetchWord 32 w)) s

/-! ## Well-formedness: an ill-formed word for each check, and the assembler's ranges -/

theorem test_wellformed_row : wellFormedWord 0x71000000 = true := by decide
theorem test_reserved_opcode_refused : wellFormedWord 0xE0000000 = false := by decide
theorem test_reserved_selector_refused : wellFormedWord 0xCA000000 = false := by decide
theorem test_reserved_count_refused : wellFormedWord 0xA0030000 = false := by decide
theorem test_reserved_bit_refused :
    [0x00000001#32, 0x10000008#32, 0x20010000#32, 0x50000001#32, 0x70010000#32, 0xA0010100#32, 0xC3100000#32].all
      (fun w => !wellFormedWord w) = true := by decide
theorem test_asm_index_refused : (AsmLine.poly 16 0).wellFormed = false := by decide
theorem test_asm_byte_refused : (AsmLine.updOne 0 256).wellFormed = false := by decide
theorem test_asm_imm_refused : (AsmLine.init 0 65536).wellFormed = false := by decide
theorem test_asm_width_refused : (AsmLine.cfg 0 12 0 0).wellFormed = false := by decide
theorem test_asm_bit_refused : (AsmLine.cfg 0 8 2 0).wellFormed = false := by decide

/-! ## Decoding: words written out from the formats of 30_encoding.md R73 -/

theorem test_decode_nop : decode 0b00000000000000000000000000000000#32 = .ok .nop := by decide
theorem test_decode_cfg : decode 0b00010001000000000000000000000011#32 = .ok (.cfg 1 true true false) := by decide
theorem test_decode_poly : decode 0b00100000000000000001000000100001#32 = .ok (.poly 0 0x1021) := by decide
theorem test_decode_init : decode 0b00110001000000001111111111111111#32 = .ok (.init 1 0xFFFF) := by decide
theorem test_decode_xout : decode 0b01000010000000000000000001010101#32 = .ok (.xout 2 0x0055) := by decide
theorem test_decode_build : decode 0b01010010000000000000000000000000#32 = .ok (.build 2) := by decide
theorem test_decode_free : decode 0b01100011000000000000000000000000#32 = .ok (.free 3) := by decide
theorem test_decode_bind : decode 0b01110010000100000000000000000000#32 = .ok (.bind 2 1) := by decide
theorem test_decode_unbind : decode 0b10000010000000000000000000000000#32 = .ok (.unbind 2) := by decide
theorem test_decode_reset : decode 0b10010010000000000000000000000000#32 = .ok (.reset 2) := by decide
theorem test_decode_upd0 : decode 0b10100010000000000000000000000000#32 = .ok (.upd0 2) := by decide
theorem test_decode_upd1 : decode 0b10100000000000010000000000111001#32 = .ok (.upd1 0 0x39) := by decide
theorem test_decode_upd2 : decode 0b10100000000000100011001000110001#32 = .ok (.upd2 0 0x31 0x32) := by decide
theorem test_decode_sum : decode 0b10110010000000000000000000000000#32 = .ok (.sum 2) := by decide
theorem test_decode_rdcrc : decode 0b11000000001000000000000000000000#32 = .ok (.rdcrc 2) := by decide
theorem test_decode_rdtab : decode 0b11000001001100000000000011111111#32 = .ok (.rdtab 3 0xFF) := by decide
theorem test_decode_rdinfo : decode 0b11000010000100000000000000000000#32 = .ok (.rdinfo 1) := by decide
theorem test_decode_rdstat : decode 0b11000011000000000000000000000000#32 = .ok .rdstat := by decide
theorem test_decode_rderr : decode 0b11000100000000000000000000000000#32 = .ok .rderr := by decide
theorem test_decode_rdscfg : decode 0b11000101000100000000000000000000#32 = .ok (.rdscfg 1) := by decide
theorem test_decode_rdpoly : decode 0b11000110001000000000000000000000#32 = .ok (.rdpoly 2) := by decide
theorem test_decode_rdinit : decode 0b11000111000100000000000000000000#32 = .ok (.rdinit 1) := by decide
theorem test_decode_rdxout : decode 0b11001000001000000000000000000000#32 = .ok (.rdxout 2) := by decide
theorem test_decode_rdchst : decode 0b11001001001000000000000000000000#32 = .ok (.rdchst 2) := by decide
theorem test_decode_clrerr : decode 0b11010000000000000000000000000000#32 = .ok .clrerr := by decide
theorem test_decode_illegal :
    decode 0xF1234567 = .error .reservedOpcode ∧ decode 0xCA000000 = .error .reservedSelector ∧
    decode 0xA0030000 = .error .reservedCount ∧ decode 0xC1000100 = .error .reservedBit := by decide
theorem test_encode_examples :
    encode (.cfg 0 true true true) = 0x10000007 ∧ encode (.bind 2 1) = 0x72100000 ∧
    encode (.upd2 0 0x31 0x32) = 0xA0023231 ∧ encode (.rdtab 0 0xFF) = 0xC10000FF := by decide

/-! ## One command on a small state (95_test_vectors.md L2, L3; the rules' examples) -/

theorem test_cfg : ((after (.cfg 0 true true false) State.reset).slot 0).scfg =
    { w16 := true, refin := true, refout := false } := by decide +kernel
theorem test_poly_locked : (after (.poly 1 0x1021) demo).status.word = 0x41 := by decide +kernel
theorem test_init : ((after (.init 2 0x1234) demo).slot 2).init = 0x1234 := by decide +kernel
theorem test_xout : ((after (.xout 2 0x0055) demo).slot 2).xout = 0x0055 := by decide +kernel
theorem test_build_table :
    let t := after (.build 2) (demo.setSlot 2 { Slot.reset with poly := 0x07 })
    [0x01, 0x80, 0xFF].map (fun i => (t.slot 2).tabRead i) = [0x07, 0x89, 0xF3] := by decide +kernel
theorem test_build_range : (after (.build 0) demo).status.word = 0x71 ∧ ((after (.build 0) demo).slot 0).valid = false := by
  decide +kernel
theorem test_free_in_use : (after (.free 1) demo).status.word = 0x61 := by decide +kernel
theorem test_free_empty : after (.free 0) demo = demo := rfl
theorem test_bind_reseeds : (after (.bind 2 1) demo).channel 2 = { bound := true, tsel := 1, crc := 0xFFFF } := by
  decide +kernel
theorem test_bind_empty : (after (.bind 1 2) demo).status.word = 0x51 := by decide +kernel
theorem test_unbind : (after (.unbind 2) demo).channel 2 = Channel.reset := by decide +kernel
theorem test_reset : ((after (.reset 3) demo).channel 3).crc = 0 := by decide +kernel
theorem test_upd0_unbound : (after (.upd0 0) demo).status.word = 0x81 := by decide +kernel
theorem test_upd1_zero_folds : ((after (.upd1 2 0x00) demo).channel 2).crc = 0x40BF := by decide +kernel
theorem test_upd2_order :
    ((after (.upd2 3 0x31 0x32) demo).channel 3).crc = 0x20B5 ∧
    ((after (.upd2 3 0x32 0x31) demo).channel 3).crc = 0x4585 := by decide +kernel
theorem test_sum_order : (built true false true 0x1021 0x1234 0x00FF).final 0xEDEB = 0xD748 := by decide +kernel
theorem test_sum : (after (.sum 2) demo).res = 0xFFFF := by decide +kernel
theorem test_rdcrc : (after (.rdcrc 2) demo).res = 0xFFFF := by decide +kernel
theorem test_rdtab : (after (.rdtab 3 0xFF) demo).res = 0x1EF0 := by decide +kernel
theorem test_rdinfo : (after (.rdinfo 2) demo).res = 0x0102 := by decide +kernel
theorem test_rdstat : (after .rdstat (failed.recordError .unbound 0x90000000)).res = 0x73 := by decide +kernel
theorem test_rderr : (after .rderr (failed.recordError .unbound 0x90000000)).res = 0x52000000 := by decide +kernel
theorem test_rdscfg : (after (.rdscfg 1) demo).res = 0x0F := by decide +kernel
theorem test_rdpoly : (after (.rdpoly 0) demo).res = 0x0107 := by decide +kernel
theorem test_rdinit : (after (.rdinit 1) demo).res = 0xFFFF := by decide +kernel
theorem test_rdxout : (after (.rdxout 2) (after (.xout 2 0x0055) demo)).res = 0x55 := by decide +kernel
theorem test_rdchst : (after (.rdchst 2) demo).res = 0x11 := by decide +kernel
theorem test_clrerr : (after .clrerr failed).status.word = 0 ∧ (after .clrerr failed).errcmd = 0 := by decide +kernel
theorem test_nop : after .nop demo = demo := rfl

/-- The check value of CRC-16/MODBUS over "123456789", by the table and bit by bit (L1.2, R137). -/
theorem test_check_value :
    modbus.final (modbus.foldSeq modbus.initReg [0x31, 0x32, 0x33, 0x34, 0x35, 0x36, 0x37, 0x38, 0x39]) = 0x4B37 ∧
    reflect .w16 (modbus.canon [0x31, 0x32, 0x33, 0x34, 0x35, 0x36, 0x37, 0x38, 0x39]) = 0x4B37 := by decide +kernel

/-! ## Steps (L2.5: each word executed from reset) -/

theorem test_step_illegal :
    [0x00000001, 0xE0000000, 0xA0000001, 0xD0000001].map (fun w => (afterWord w State.reset).status.word) =
      [0x11, 0x11, 0x11, 0x11] := by decide +kernel
theorem test_step_bad_index :
    [0x24000000, 0x75900000, 0x71900000].map (fun w => (afterWord w State.reset).status.word) = [0x31, 0x21, 0x31] := by
  decide +kernel
theorem test_step_errcmd : (afterWord 0x71900000 State.reset).errcmd = 0x71900000 := by decide +kernel
theorem test_step_read_res :
    (nextOf (step { failed with res := 0x4B37, pending := [.access (.read 4 32)] }) demo).history =
      [{ access := .read 4 32, data := some 0x4B37 }] := by decide +kernel
theorem test_decode_table_word : decodeTableWord 32 0x72100000 = some (.bind 2 1) := by decide

/-! ## The assembler and the host's functions (L2.6) -/

theorem test_asm_line : parseLine "UPD 0, 0x31, 50 ; two bytes".toList = some (some (.updTwo 0 0x31 0x32)) := by
  decide +kernel
theorem test_asm_text : parseLine "FEED 2, \"12\"".toList = some (some (.feed 2 [0x31, 0x32])) := by decide +kernel
theorem test_asm_program :
    assembleProgram State.reset ["CFG 2, 8, 1, 1".toList, "SUMRD 3".toList] =
      some [.write 0 32 0x12000006, .write 0 32 0xB3000000, .read 4 32] := by decide +kernel
theorem test_serialize : serialize .w16 0x31C3 = [0x31, 0xC3] ∧ serialize .w8 0xF4 = [0xF4] := by decide

/-! ## Witnesses: for each statement with hypotheses, states and operands that meet them, clause by clause -/

theorem witness_CfgConfiguresEmptySlot :
    (∃ (k : Index) (s : State), s.cfg.numTables ≤ k.toNat) ∧
    (∃ (k : Index) (s : State), k.toNat < s.cfg.numTables ∧ (s.slot k).valid = true) ∧
    (∃ (k : Index) (s : State), k.toNat < s.cfg.numTables ∧ (s.slot k).valid = false) :=
  ⟨⟨4, demo, by decide +kernel⟩, ⟨3, demo, by decide +kernel⟩, ⟨0, demo, by decide +kernel⟩⟩

theorem witness_PolyInitXoutStoreImmediate :
    (∃ (k : Index) (s : State), s.cfg.numTables ≤ k.toNat) ∧
    (∃ (k : Index) (s : State), k.toNat < s.cfg.numTables ∧ (s.slot k).valid = true) ∧
    (∃ (k : Index) (s : State), k.toNat < s.cfg.numTables ∧ (s.slot k).valid = false) :=
  ⟨⟨15, demo, by decide +kernel⟩, ⟨1, demo, by decide +kernel⟩, ⟨2, demo, by decide +kernel⟩⟩

theorem witness_BuildGeneratesTable :
    (∃ (k : Index) (s : State), s.cfg.numTables ≤ k.toNat) ∧
    (∃ (k : Index) (s : State), k.toNat < s.cfg.numTables ∧ (s.slot k).valid = true) ∧
    (∃ (k : Index) (s : State), k.toNat < s.cfg.numTables ∧ (s.slot k).valid = false ∧ (s.slot k).inRange = false) ∧
    (∃ (k : Index) (s : State), k.toNat < s.cfg.numTables ∧ (s.slot k).valid = false ∧ (s.slot k).inRange = true) :=
  ⟨⟨4, demo, by decide +kernel⟩, ⟨3, demo, by decide +kernel⟩, ⟨0, demo, by decide +kernel⟩,
    ⟨2, demo, by decide +kernel⟩⟩

theorem witness_FreeEmptiesUnusedSlot :
    (∃ (k : Index) (s : State), s.cfg.numTables ≤ k.toNat) ∧
    (∃ (k : Index) (s : State), k.toNat < s.cfg.numTables ∧ (s.slot k).valid = false) ∧
    (∃ (k : Index) (s : State), k.toNat < s.cfg.numTables ∧ (s.slot k).valid = true ∧
      ∃ c : Index, c.toNat < s.cfg.numChannels ∧ (s.channel c).bound = true ∧ (s.channel c).tsel = k) ∧
    (∃ (k : Index) (s : State), k.toNat < s.cfg.numTables ∧ (s.slot k).valid = true ∧
      ∀ c : Index, c.toNat < s.cfg.numChannels → (s.channel c).bound = true → (s.channel c).tsel ≠ k) :=
  ⟨⟨4, demo, by decide +kernel⟩, ⟨0, demo, by decide +kernel⟩, ⟨3, demo, by decide +kernel, by decide +kernel, 3, by
    decide +kernel⟩, ⟨2, demo.setSlot 2 crc8, by decide +kernel, by decide +kernel, by decide +kernel⟩⟩

theorem witness_BindSeedsChannel :
    (∃ (c : Index) (s : State), s.cfg.numChannels ≤ c.toNat) ∧
    (∃ (c k : Index) (s : State), c.toNat < s.cfg.numChannels ∧ s.cfg.numTables ≤ k.toNat) ∧
    (∃ (c k : Index) (s : State), c.toNat < s.cfg.numChannels ∧ k.toNat < s.cfg.numTables ∧
      (s.slot k).valid = false) ∧
    (∃ (c k : Index) (s : State), c.toNat < s.cfg.numChannels ∧ k.toNat < s.cfg.numTables ∧
      (s.slot k).valid = true ∧ (s.slot k).scfg.refin = true) ∧
    (∃ (c k : Index) (s : State), c.toNat < s.cfg.numChannels ∧ k.toNat < s.cfg.numTables ∧
      (s.slot k).valid = true ∧ (s.slot k).scfg.refin = false) :=
  ⟨⟨4, demo, by decide +kernel⟩, ⟨3, 4, demo, by decide +kernel⟩, ⟨0, 0, demo, by decide +kernel⟩,
    ⟨3, 1, demo, by decide +kernel⟩, ⟨0, 3, demo, by decide +kernel⟩⟩

theorem witness_UnbindClearsChannel :
    (∃ (c : Index) (s : State), s.cfg.numChannels ≤ c.toNat) ∧
    (∃ (c : Index) (s : State), c.toNat < s.cfg.numChannels) :=
  ⟨⟨4, demo, by decide +kernel⟩, ⟨3, demo, by decide +kernel⟩⟩

/-- The clauses of ResetReseedsChannel, UpdFoldsBytesInOrder, SumPlacesChecksumInRes and ChannelReadsPlaceRegisterInRes. -/
theorem witness_EngineCommands :
    (∃ (c : Index) (s : State), s.cfg.numChannels ≤ c.toNat) ∧
    (∃ (c : Index) (s : State), c.toNat < s.cfg.numChannels ∧ (s.channel c).bound = false) ∧
    (∃ (c : Index) (s : State), c.toNat < s.cfg.numChannels ∧ (s.channel c).bound = true ∧
      (s.slot (s.channel c).tsel).scfg.refin = true) ∧
    (∃ (c : Index) (s : State), c.toNat < s.cfg.numChannels ∧ (s.channel c).bound = true ∧
      (s.slot (s.channel c).tsel).scfg.refin = false) ∧
    (∃ (c : Index) (s : State), c.toNat < s.cfg.numChannels ∧ (s.channel c).bound = true ∧
      (s.slot (s.channel c).tsel).width = .w8) :=
  ⟨⟨4, demo, by decide +kernel⟩, ⟨0, demo, by decide +kernel⟩, ⟨2, demo, by decide +kernel⟩,
    ⟨3, demo, by decide +kernel⟩, ⟨3, demo.setSlot 3 crc8, by decide +kernel⟩⟩

theorem witness_SlotReadsPlaceRegisterInRes :
    (∃ (k : Index) (s : State), s.cfg.numTables ≤ k.toNat) ∧
    (∃ (k : Index) (s : State), k.toNat < s.cfg.numTables ∧ (s.slot k).valid = false) ∧
    (∃ (k : Index) (s : State), k.toNat < s.cfg.numTables ∧ (s.slot k).valid = true) :=
  ⟨⟨4, demo, by decide +kernel⟩, ⟨0, demo, by decide +kernel⟩, ⟨3, demo, by decide +kernel⟩⟩

theorem witness_HostAccessesFollowBusMap :
    (∃ (s : State) (a : BusAccess), s.pending = [.access a] ∧ a = .write s.cfg.base 32 0x50000000) ∧
    (∃ (s : State) (a : BusAccess), s.pending = [.access a] ∧ a = .read (s.cfg.base + 4) 32) ∧
    (∃ (s : State) (a : BusAccess), s.pending = [.access a] ∧ a = .read s.cfg.base 32) ∧
    (∃ (s : State) (a : BusAccess), s.pending = [.access a] ∧ a = .write (s.cfg.base + 4) 32 0) ∧
    (∃ (s : State) (addr bits : Nat), s.pending = [.access (.read addr bits)] ∧
      ¬ (bits = 32 ∧ (addr = s.cfg.base ∨ addr = s.cfg.base + 4))) ∧
    (∃ (s : State) (addr : Nat), s.pending = [.access (.write addr 32 0)] ∧ addr = s.cfg.base + 8 ∧
      ¬ (addr = s.cfg.base ∨ addr = s.cfg.base + 4)) ∧
    (∃ (s : State) (addr : Nat), s.pending = [.access (.read addr 32)] ∧ (addr - s.cfg.base) % 4 ≠ 0 ∧
      ¬ (addr = s.cfg.base ∨ addr = s.cfg.base + 4)) ∧
    (∃ (s : State) (addr : Nat), s.pending = [.access (.write addr 32 0)] ∧ addr < s.cfg.base ∧
      ¬ (addr = s.cfg.base ∨ addr = s.cfg.base + 4)) :=
  ⟨⟨{ demo with pending := [.access (.write 0 32 0x50000000)] }, _, rfl, rfl⟩,
    ⟨{ demo with pending := [.access (.read 4 32)] }, _, rfl, rfl⟩,
    ⟨{ demo with pending := [.access (.read 0 32)] }, _, rfl, rfl⟩,
    ⟨{ demo with pending := [.access (.write 4 32 0)] }, _, rfl, rfl⟩,
    ⟨{ demo with pending := [.access (.read 4 16)] }, 4, 16, rfl, by decide⟩,
    ⟨{ demo with pending := [.access (.write 8 32 0)] }, 8, rfl, by decide⟩,
    ⟨{ demo with pending := [.access (.read 3 32)] }, 3, rfl, by decide⟩,
    ⟨{ State.resetFor ⟨4, 4, 16, .littleEndian⟩ with pending := [.access (.write 12 32 0)] }, 12, rfl, by decide⟩⟩

theorem witness_StepRunsDecodedCommand :
    (∃ (s : State) (w : Word) (i : Instr), s.pending = [.access (.write s.cfg.base 32 w)] ∧ decode w = .ok i) ∧
    (∃ (s : State) (w : Word) (r : Illegal), s.pending = [.access (.write s.cfg.base 32 w)] ∧ decode w = .error r) :=
  ⟨⟨{ demo with pending := [.access (.write 0 32 0x72100000)] }, 0x72100000, .bind 2 1, rfl, by decide⟩,
    ⟨{ demo with pending := [.access (.write 0 32 0xE0000000)] }, 0xE0000000, .reservedOpcode, rfl, by decide⟩⟩

theorem witness_CommandIndexAdvancesByOne :
    ∃ (s t : State) (a : BusAccess), s.pending = [.access a] ∧ step s = .next t :=
  ⟨{ demo with pending := [.access (.write 0 32 0x72100000)] }, _, _, rfl, eq_nextOf demo (by decide +kernel)⟩

theorem witness_BlockResetInputResetsRegisters : ∃ s : State, s.pending = [.blockReset] ∧ s.status.err = true :=
  ⟨{ failed with pending := [.blockReset] }, rfl, by decide +kernel⟩

theorem witness_IdleStepHoldsState : ∃ s : State, s.pending = [] ∧ (s.channel 2).bound = true :=
  ⟨demo, by decide +kernel⟩

theorem witness_EncodeOfDecode : ∃ (w : Word) (i : Instr), decode w = .ok i := ⟨0xA0023231, .upd2 0 0x31 0x32, by decide⟩

theorem witness_DecodeFollowsOpcodeMap :
    (∃ (w : Word) (i : Instr), decode w = .ok i) ∧ (∃ w : Word, ∃ r ∈ opcodeRows, w &&& r.mask = r.matchBits) :=
  ⟨⟨0xC10000FF, .rdtab 0 0xFF, by decide⟩, ⟨0xC10000FF, ⟨"RDTAB", 0xC1000000, 0xFF0FFF00⟩, by decide, by decide⟩⟩

theorem witness_ReservedEncodingsAreIllegal :
    (∃ w : Word, 14 ≤ (w.extractLsb' 28 4).toNat) ∧
    (∃ w : Word, w.extractLsb' 28 4 = 0xA#4 ∧ w.extractLsb' 16 2 = 3#2) ∧
    (∃ w : Word, w.extractLsb' 28 4 = 0xC#4 ∧ 10 ≤ (w.extractLsb' 24 4).toNat) :=
  ⟨⟨0xE0000000, by decide⟩, ⟨0xA0030000, by decide⟩, ⟨0xCA000000, by decide⟩⟩

theorem witness_ErrorsAreOrderedRecordedPrecise :
    (∃ (w : Word) (r : Illegal), decode w = .error r) ∧
    (∃ (w : Word) (i : Instr) (s : State) (e : ErrorCode), decode w = .ok i ∧ raisedError i s = some e) ∧
    (∃ (w : Word) (i : Instr) (s : State), decode w = .ok i ∧ raisedError i s = none ∧ i ≠ .clrerr) :=
  ⟨⟨0xF1234567, .reservedOpcode, by decide⟩,
    ⟨0x75900000, .bind 5 9, demo, .badChannel, by decide, by decide +kernel⟩,
    ⟨0x71300000, .bind 1 3, demo, by decide, by decide +kernel, by decide⟩⟩

theorem witness_CommandsDoNotDependOnErrorRecord : ∃ i : Instr, i ≠ .rdstat ∧ i ≠ .rderr := ⟨.rdcrc 0, by decide⟩

theorem witness_FirstErrorIsKept :
    ∃ (i : Instr) (s t : State), s.status.err = true ∧ exec i s = .next t ∧ i ≠ .clrerr ∧ s.status.multi = true :=
  ⟨.reset 0, failed.recordError .unbound 0, _, by decide +kernel, eq_nextOf demo (by decide +kernel), by decide, by
    decide +kernel⟩

theorem witness_TablesImmutableWhileValid :
    ∃ (i : Instr) (s t : State) (k : Index), exec i s = .next t ∧ (s.slot k).valid = true ∧ i ≠ .build k :=
  ⟨.free 1, demo.setChannel 2 Channel.reset, _, 1, eq_nextOf demo (by decide +kernel), by decide +kernel, by decide⟩

theorem witness_ValidSetByBuildClearedByFree :
    (∃ (i : Instr) (s t : State) (k : Index), exec i s = .next t ∧ (s.slot k).valid = false ∧
      (t.slot k).valid = true) ∧
    (∃ (i : Instr) (s t : State) (k : Index), exec i s = .next t ∧ (s.slot k).valid = true ∧
      (t.slot k).valid = false) :=
  ⟨⟨.build 2, demo, _, 2, eq_nextOf demo (by decide +kernel), by decide +kernel, by decide +kernel⟩,
    ⟨.free 1, demo.setChannel 2 Channel.reset, _, 1, eq_nextOf demo (by decide +kernel), by decide +kernel, by
      decide +kernel⟩⟩

theorem witness_ParametersWrittenOnlyByTheirCommands :
    (∃ (i : Instr) (s t : State) (k : Index), exec i s = .next t ∧ (∀ w ri ro, i ≠ .cfg k w ri ro) ∧
      (∀ v, i ≠ .init k v) ∧ (∀ v, i ≠ .xout k v)) ∧
    (∃ (i : Instr) (s t : State) (k : Index), exec i s = .next t ∧ (∀ v, i ≠ .poly k v) ∧ (s.slot k).valid = true) :=
  ⟨⟨.poly 0 7, demo, _, 0, eq_nextOf demo (by decide +kernel), by simp, by simp, by simp⟩,
    ⟨.cfg 1 false false false, demo, _, 1, eq_nextOf demo (by decide +kernel), by simp, by decide +kernel⟩⟩

theorem witness_ChannelWrittenOnlyByEngineCommands :
    (∃ (i : Instr) (s t : State) (c : Index), exec i s = .next t ∧ (s.channel c).bound = false ∧
      (t.channel c).bound = true ∧ (t.channel c).tsel ≠ (s.channel c).tsel ∧
      (t.channel c).crc ≠ (s.channel c).crc) ∧
    (∃ (i : Instr) (s t : State) (c : Index), exec i s = .next t ∧ (s.channel c).bound = true ∧
      (t.channel c).bound = false) :=
  ⟨⟨.bind 0 1, demo, _, 0, eq_nextOf demo (by decide +kernel), by decide +kernel, by decide +kernel, by decide +kernel,
      by decide +kernel⟩,
    ⟨.unbind 2, demo, _, 2, eq_nextOf demo (by decide +kernel), by decide +kernel, by decide +kernel⟩⟩

theorem witness_ResWrittenOnlyByResultCommands :
    (∃ (i : Instr) (s t : State), exec i s = .next t ∧ mnemonicOf i = "UPD1" ∧ raisedError i s = none) ∧
    (∃ (i : Instr) (s t : State), exec i s = .next t ∧ mnemonicOf i = "SUM" ∧ raisedError i s ≠ none) :=
  ⟨⟨.upd1 2 0, demo, _, eq_nextOf demo (by decide +kernel), rfl, by decide +kernel⟩,
    ⟨.sum 0, demo, _, eq_nextOf demo (by decide +kernel), rfl, by decide +kernel⟩⟩

theorem witness_CommandsStayInsideTheBuild :
    ∃ (s : State) (k : Index), s.cfg.numTables ≤ k.toNat ∧ s.cfg.numChannels ≤ k.toNat := ⟨demo, 4, by decide +kernel⟩

theorem witness_RepeatedCommandsAreIdempotent :
    (∃ (i : Instr) (s t : State), raisedError i s = none ∧ exec i s = .next t ∧ (∀ c b, i ≠ .upd1 c b) ∧
      (∀ c b b', i ≠ .upd2 c b b') ∧ ∀ k, i ≠ .build k) ∧
    (∃ (i : Instr) (s t : State) (k : Index), raisedError i s = none ∧ exec i s = .next t ∧ i = .build k) :=
  ⟨⟨.bind 0 1, demo, _, by decide +kernel, eq_nextOf demo (by decide +kernel), by simp, by simp, by simp⟩,
    ⟨.build 2, demo, _, 2, by decide +kernel, eq_nextOf demo (by decide +kernel), rfl⟩⟩

theorem witness_CommandsOnDifferentChannelsCommute :
    ∃ (i j : Instr) (c d : Index), channelOperand i = some c ∧ channelOperand j = some d ∧ c ≠ d :=
  ⟨.upd1 2 0x31, .bind 3 1, 2, 3, by decide⟩

theorem witness_ReflectReversesBits : ∃ (w : Width) (v : Half), fits w v = true := ⟨.w8, 0xFF, by decide⟩

/-- The hypothesis of TableIsLinear and of ReflectedTableForms, at the largest polynomial of width 8. -/
theorem witness_TablePolynomialFits : ∃ (w : Width) (p : Half), fits w p = true := ⟨.w8, 0xFF, by decide⟩

theorem witness_EqualParametersGiveEqualTables :
    ∃ (s s' t t' : State) (k k' : Index), raisedError (.build k) s = none ∧ raisedError (.build k') s' = none ∧
      (s.slot k).scfg.w16 = (s'.slot k').scfg.w16 ∧ (s.slot k).scfg.refin = (s'.slot k').scfg.refin ∧
      (s.slot k).poly = (s'.slot k').poly ∧ exec (.build k) s = .next t ∧ exec (.build k') s' = .next t' :=
  ⟨demo, State.reset, _, _, 2, 0, by decide +kernel, by decide +kernel, by decide +kernel, by decide +kernel, by
    decide +kernel, eq_nextOf demo (by decide +kernel), eq_nextOf demo (by decide +kernel)⟩

theorem witness_FoldStaysInWidth :
    ∃ (sl : Slot) (v : Half), fits sl.width v = true ∧ sl.tab = sl.generated ∧ sl.width = .w8 :=
  ⟨crc8, 0xFF, by decide, rfl, rfl⟩

theorem witness_FinalReflectsThenXors :
    (∃ (sl : Slot) (v : Half), fits sl.width v = true ∧ fits sl.width sl.xout = true ∧
      sl.scfg.refin = sl.scfg.refout) ∧
    (∃ (sl : Slot) (v : Half), fits sl.width v = true ∧ fits sl.width sl.xout = true ∧
      sl.scfg.refin ≠ sl.scfg.refout) :=
  ⟨⟨crc8, 0xFF, by decide, by decide, by decide⟩,
    ⟨built true false true 0x1021 0x1234 0x00FF, 0xEDEB, by decide, by decide, by decide⟩⟩

theorem witness_FeedingIsAssociative :
    ∃ (c : Index) (s : State) (xs ys : List Chunk), c.toNat < s.cfg.numChannels ∧ (s.channel c).bound = true ∧
      xs.flatMap Chunk.bytes = ys.flatMap Chunk.bytes ∧ xs ≠ ys :=
  ⟨2, demo, [.two 1 2, .one 3], [.one 1, .none, .two 2 3], by decide +kernel⟩

theorem witness_EmptyInputChecksum :
    (∃ (c k : Index) (s : State), c.toNat < s.cfg.numChannels ∧ k.toNat < s.cfg.numTables ∧
      (s.slot k).valid = true ∧ (s.slot k).inRange = true ∧ (s.channel c).bound = false) ∧
    (∃ (c k : Index) (s : State), c.toNat < s.cfg.numChannels ∧ k.toNat < s.cfg.numTables ∧
      (s.slot k).valid = true ∧ (s.slot k).inRange = true ∧ (s.channel c).bound = true ∧ (s.channel c).tsel = k ∧
      (s.channel c).crc ≠ (s.slot k).initReg) :=
  ⟨⟨0, 3, demo, by decide +kernel⟩,
    ⟨2, 1, demo.setChannel 2 { bound := true, tsel := 1, crc := 0x40BF }, by decide +kernel⟩⟩

theorem witness_ChecksumEqualsBitSerialCrc :
    ∃ (c k : Index) (s : State), c.toNat < s.cfg.numChannels ∧ k.toNat < s.cfg.numTables ∧
      (s.slot k).valid = true ∧ SlotInv s k ∧ (s.channel c).bound = true ∧ (s.channel c).tsel = k :=
  ⟨2, 1, demo, by decide +kernel, by decide +kernel, by decide +kernel,
    fun _ => ⟨by decide +kernel, by decide +kernel, rfl⟩, by decide +kernel, by decide +kernel⟩

theorem witness_DeftabBuildsParameterSet :
    ∃ (k : Index) (p i x : Half) (s : State), k.toNat < s.cfg.numTables ∧ (s.slot k).valid = false ∧
      p.toNat < 256 ∧ i.toNat < 256 ∧ x.toNat < 256 := ⟨0, 0xFF, 0xFF, 0xFF, demo, by decide +kernel⟩

theorem witness_HostWriteReportsCount :
    (∃ (c : Index) (s : State), c.toNat < s.cfg.numChannels ∧ (s.channel c).bound = true) ∧
    (∃ (c : Index) (s : State), s.status.err = false ∧ c.toNat < s.cfg.numChannels ∧ (s.channel c).bound = false) ∧
    (∃ (c : Index) (s : State), s.status.err = false ∧ s.cfg.numChannels ≤ c.toNat) :=
  ⟨⟨3, demo, by decide +kernel⟩, ⟨0, demo, by decide +kernel⟩, ⟨4, demo, by decide +kernel⟩⟩

/-- The hypotheses of HostSumSerializesChecksum and of HostSizeBlockSizeReset, for both widths. -/
theorem witness_HostFunctions :
    (∃ (c : Index) (s : State), c.toNat < s.cfg.numChannels ∧ (s.channel c).bound = true ∧
      (s.slot (s.channel c).tsel).scfg.w16 = true) ∧
    (∃ (c : Index) (s : State), c.toNat < s.cfg.numChannels ∧ (s.channel c).bound = true ∧
      (s.slot (s.channel c).tsel).scfg.w16 = false) :=
  ⟨⟨2, demo, by decide +kernel⟩, ⟨3, demo.setSlot 3 crc8, by decide +kernel⟩⟩

theorem witness_AssemblerEmitsEncodedWords :
    (∃ a b d e : Nat, a < 16 ∧ (b = 8 ∨ b = 16) ∧ d < 2 ∧ e < 2) ∧ (∃ a b : Nat, a < 16 ∧ b < 65536) ∧
    (∃ a b : Nat, a < 16 ∧ b < 16) ∧ (∃ a b d : Nat, a < 16 ∧ b < 256 ∧ d < 256) ∧ (∃ a b : Nat, a < 16 ∧ b < 256) ∧
    (∃ a : Nat, ¬ a < 16) ∧ (∃ a b : Nat, ¬ (a < 16 ∧ b < 256)) ∧ (∃ a b : Nat, ¬ (a < 16 ∧ b < 65536)) ∧
    (∃ a b d e : Nat, ¬ (a < 16 ∧ (b = 8 ∨ b = 16) ∧ d < 2 ∧ e < 2)) ∧
    (∃ a b d e : Nat, a < 16 ∧ b = 8 ∧ ¬ (d < 2 ∧ e < 2)) ∧ (∃ a b : Nat, a < 16 ∧ ¬ b < 16) ∧
    (∃ a b d : Nat, a < 16 ∧ b < 256 ∧ ¬ d < 256) :=
  ⟨⟨15, 16, 1, 1, by decide⟩, ⟨15, 65535, by decide⟩, ⟨15, 15, by decide⟩, ⟨15, 255, 255, by decide⟩,
    ⟨15, 255, by decide⟩, ⟨16, by decide⟩, ⟨15, 256, by decide⟩, ⟨15, 65536, by decide⟩,
    ⟨15, 12, 0, 0, by decide⟩, ⟨15, 8, 2, 1, by decide⟩, ⟨15, 16, by decide⟩, ⟨15, 255, 256, by decide⟩⟩

theorem witness_ResetMeetsInvariant : ∃ cfg : Config, cfg.Valid := ⟨⟨16, 16, 0x1000, .bigEndian⟩, by decide⟩

theorem witness_StepKeepsInvariant :
    ∃ s t : State, s.Inv ∧ step s = .next t ∧ t.index ≠ s.index :=
  ⟨State.reset.withFetchWord 32 0x50000000, _, by decide +kernel, eq_nextOf demo (by decide +kernel), by
    decide +kernel⟩

theorem witness_EmptyTablesAreUnobservable : ∃ s t : State, s.Inv ∧ Alike s t ∧ (t.slot 0).tab ≠ (s.slot 0).tab :=
  ⟨State.reset, State.reset.setSlot 0 { Slot.reset with tab := Vector.replicate 256 1 }, by decide +kernel, by
    decide +kernel, by decide +kernel⟩

theorem witness_StepKeepsConfiguration : ∃ s t : State, step s = .next t ∧ s.cfg ≠ Config.reference :=
  ⟨State.resetFor ⟨1, 16, 8, .bigEndian⟩, _, eq_nextOf demo (by decide +kernel), by decide +kernel⟩

end Sys2Proof.Tests
end

section
/-! The bit reversal `reflect_w` (spec/00_scope.md R12): its bits, its inverse, and the reflections of a byte. -/

namespace Sys2Proof.Machine

/-- A value that fits `w` bits has no bit from `w` on. -/
theorem getLsbD_eq_false_of_fits {w : Width} {v : Half} (h : fits w v = true) {i : Nat} (hi : Width.bits w ≤ i) :
    v.getLsbD i = false := by
  rw [← mask_of_fits h, mask_getLsbD]
  simp [Nat.not_lt.2 hi]

/-- The bits above `w` are not read (log 11), so no hypothesis on `v` is needed. -/
@[simp] theorem fits_reflect (w : Width) (v : Half) : fits w (reflect w v) = true := by
  cases w with
  | w8 =>
    rw [fits_iff, reflect, BitVec.toNat_setWidth_of_le (by decide)]
    exact (v.setWidth 8).reverse.isLt
  | w16 => exact fits_w16 _

/-- Reflecting twice moves bit `i` to `w-1-i` and back; of a wider value only the low `w` bits are left. -/
theorem reflect_reflect (w : Width) (v : Half) : reflect w (reflect w v) = mask w v := by
  apply BitVec.eq_of_getLsbD_eq
  intro i _
  by_cases hi : i < Width.bits w
  · rw [reflect_getLsbD w _ i hi, reflect_getLsbD w v _ (by omega), mask_getLsbD,
      show Width.bits w - 1 - (Width.bits w - 1 - i) = i by omega]
    simp [hi]
  · rw [getLsbD_eq_false_of_fits (fits_reflect _ _) (Nat.not_lt.1 hi),
      getLsbD_eq_false_of_fits (fits_mask _ _) (Nat.not_lt.1 hi)]

/-- `reflect_w` is its own inverse on the values it is defined for (R12). -/
theorem reflect_reflect_of_fits {w : Width} {v : Half} (h : fits w v = true) : reflect w (reflect w v) = v := by
  rw [reflect_reflect, mask_of_fits h]

/-- Of a byte, `reflect_8` is the reversal of its eight bits. -/
theorem reflect_w8_setWidth (i : Byte) : reflect .w8 (i.setWidth 16) = (reflectByte i).setWidth 16 := by
  simp [reflect, reflectByte]

/-- `reflect_16(i) = reflect_8(i) << 8` for a byte (R12): both have bit `15-j` of `i` as bit `j`. Below bit 8 that is a
bit the byte does not have, and a bit the shift has cleared. -/
theorem reflect_w16_setWidth (i : Byte) : reflect .w16 (i.setWidth 16) = reflect .w8 (i.setWidth 16) <<< 8 := by
  apply BitVec.eq_of_getLsbD_eq
  intro j hj
  rw [reflect_getLsbD .w16 _ j hj, BitVec.getLsbD_shiftLeft]
  by_cases h8 : j < 8
  · have habove : i.getLsbD (15 - j) = false := BitVec.getLsbD_of_ge _ _ (by omega)
    simp [Width.bits, h8, habove]
  · rw [reflect_getLsbD .w8 _ (j - 8) (show j - 8 < 8 by omega)]
    simp [Width.bits, hj, h8, show 7 - (j - 8) = 15 - j by omega]

/-- Settles O38: bit by bit from `reflect_getLsbD`, the inverse from the two moves of an index, the reflections of a byte
from where its bits go. -/
theorem reflectReversesBits : Obligations.ReflectReversesBits := by
  unfold Obligations.ReflectReversesBits
  refine ⟨fun w v hv => ⟨?bits, ?fits, ?inverse⟩, reflect_w16_setWidth, reflect_w8_setWidth⟩
  case bits => exact reflect_getLsbD w v
  case fits => exact fits_reflect w v
  case inverse => exact reflect_reflect_of_fits hv

end Sys2Proof.Machine
end

section
/-! What a command does, said once: the error it raises, or the one part of the state it writes
(spec/60_exceptions.md R203, R204). -/

namespace Sys2Proof.Machine

/-- The one part of the state a command writes, with the value it puts there. -/
inductive Write where
  | nothing
  | slot (k : Index) (v : Slot)
  | channel (c : Index) (v : Channel)
  | result (v : Word)
  | clearErrors

/-- The state after a write. -/
def State.write (s : State) : Write → State
  | .nothing => s
  | .slot k v => s.setSlot k v
  | .channel c v => s.setChannel c v
  | .result v => s.setRes v
  | .clearErrors => s.clearErrors

/-- What UPD with the bytes `d` writes (R143). -/
def feedWrite (s : State) (c : Index) (d : List Byte) : Write :=
  .channel c { s.channel c with crc := (s.slot (s.channel c).tsel).foldSeq (s.channel c).crc d }

/-- What a command writes when it raises no error. -/
def writeOf (i : Instr) (s : State) : Write :=
  match i with
  | .nop => .nothing
  | .cfg k w16 refin refout => .slot k { s.slot k with scfg := { w16 := w16, refin := refin, refout := refout } }
  | .poly k v => .slot k { s.slot k with poly := v }
  | .init k v => .slot k { s.slot k with init := v }
  | .xout k v => .slot k { s.slot k with xout := v }
  | .build k => .slot k { s.slot k with tab := (s.slot k).generated, valid := true }
  | .free k => .slot k { s.slot k with valid := false }
  | .bind c k => .channel c { bound := true, tsel := k, crc := (s.slot k).initReg }
  | .unbind c => .channel c { bound := false, tsel := 0, crc := 0 }
  | .reset c => .channel c { s.channel c with crc := (s.slot (s.channel c).tsel).initReg }
  | .upd0 c => feedWrite s c []
  | .upd1 c b0 => feedWrite s c [b0]
  | .upd2 c b0 b1 => feedWrite s c [b0, b1]
  | .sum c => .result (((s.slot (s.channel c).tsel).final (s.channel c).crc).setWidth 32)
  | .rdcrc u => .result ((s.channel u).crc.setWidth 32)
  | .rdtab u idx => .result (((s.slot u).tabRead idx).setWidth 32)
  | .rdinfo u => .result ((0x01#8 ++ BitVec.ofNat 8 (Width.bits (s.slot (s.channel u).tsel).width / 8)).setWidth 32)
  | .rdstat => .result s.status.word
  | .rderr => .result s.errcmd
  | .rdscfg u => .result ((BitVec.ofBool (s.slot u).valid ++ BitVec.ofBool (s.slot u).scfg.refout ++
      BitVec.ofBool (s.slot u).scfg.refin ++ BitVec.ofBool (s.slot u).scfg.w16).setWidth 32)
  | .rdpoly u => .result ((s.slot u).poly.setWidth 32)
  | .rdinit u => .result ((s.slot u).init.setWidth 32)
  | .rdxout u => .result ((s.slot u).xout.setWidth 32)
  | .rdchst u => .result (((s.channel u).tsel ++ 0#3 ++ BitVec.ofBool (s.channel u).bound).setWidth 32)
  | .clrerr => .clearErrors

/-- The state after a command of which error `e` is raised, or none. -/
def outcomeOf (i : Instr) (s : State) : Option ErrorCode → State
  | some e => s.recordError e (encode i)
  | none => s.write (writeOf i s)

/-- The state after a command (`exec_eq`). -/
def commandOutcome (i : Instr) (s : State) : State := outcomeOf i s (raisedError i s)

/-! ### The operand forms, for a command with these operands -/

section
variable {i : Instr} {s : State} {c k : Index} {e : Option ErrorCode}

theorem withSlot_outcome {f : Slot → Result} (hc : channelOperand i = none) (hk : slotOperand i = some k)
    (hf : f (s.slot k) = .next (outcomeOf i s (stateError i s))) :
    withSlot k (encode i) s f = .next (commandOutcome i s) := by
  unfold withSlot
  split
  next h => simp [hf, commandOutcome, raisedError, hc, hk, outOfRange, Nat.not_le.2 h]
  next h => simp [raise_eq, commandOutcome, raisedError, hc, hk, outOfRange, Nat.not_lt.1 h, outcomeOf]

theorem withEmptySlot_outcome {f : Slot → Result} (hc : channelOperand i = none) (hk : slotOperand i = some k)
    (he : stateError i s = if (s.slot k).valid then some .slotLocked else e)
    (hf : f (s.slot k) = .next (outcomeOf i s e)) :
    withEmptySlot k (encode i) s f = .next (commandOutcome i s) := by
  refine withSlot_outcome hc hk ?_
  rw [he]
  split
  · rfl
  · exact hf

theorem withValidSlot_outcome {f : Slot → Result} (hc : channelOperand i = none) (hk : slotOperand i = some k)
    (he : stateError i s = if (s.slot k).valid then none else some .slotEmpty)
    (hf : f (s.slot k) = .next (s.write (writeOf i s))) :
    withValidSlot k (encode i) s f = .next (commandOutcome i s) := by
  refine withSlot_outcome hc hk ?_
  rw [he]
  split
  · exact hf
  · rfl

theorem withChannel_outcome {f : Channel → Result} (hc : channelOperand i = some c) (hk : slotOperand i = none)
    (hf : f (s.channel c) = .next (outcomeOf i s (stateError i s))) :
    withChannel c (encode i) s f = .next (commandOutcome i s) := by
  unfold withChannel
  split
  next h => simp [hf, commandOutcome, raisedError, hc, hk, outOfRange, Nat.not_le.2 h]
  next h => simp [raise_eq, commandOutcome, raisedError, hc, outOfRange, Nat.not_lt.1 h, outcomeOf]

theorem withEngine_outcome {f : Channel → Slot → Result} (hc : channelOperand i = some c)
    (hk : slotOperand i = none) (he : stateError i s = if (s.channel c).bound then none else some .unbound)
    (hf : f (s.channel c) (s.slot (s.channel c).tsel) = .next (s.write (writeOf i s))) :
    withEngine c (encode i) s f = .next (commandOutcome i s) := by
  refine withChannel_outcome hc hk ?_
  rw [he]
  split
  · exact hf
  · rfl

theorem update_outcome {d : List Byte} (hc : channelOperand i = some c) (hk : slotOperand i = none)
    (he : stateError i s = if (s.channel c).bound then none else some .unbound)
    (hw : writeOf i s = feedWrite s c d) : update c (encode i) d s = .next (commandOutcome i s) :=
  withEngine_outcome hc hk he (by rw [hw]; rfl)

end

/-- Writing back what a slot holds changes nothing. -/
@[simp] theorem setSlot_self (s : State) (k : Index) : s.setSlot k (s.slot k) = s := by
  simp [State.setSlot, State.slot]

theorem execBuild_outcome (k : Index) (s : State) : execBuild k s = .next (commandOutcome (.build k) s) := by
  refine withEmptySlot_outcome rfl rfl rfl ?_
  split
  · rfl
  · rfl

/-- FREE of an empty slot writes back what the slot holds. -/
theorem execFree_outcome (k : Index) (s : State) : execFree k s = .next (commandOutcome (.free k) s) := by
  refine withSlot_outcome rfl rfl ?_
  cases hv : (s.slot k).valid with
  | false =>
    have hself : { s.slot k with valid := false } = s.slot k := by rw [← hv]
    simp [stateError, hv, outcomeOf, writeOf, State.write, hself]
  | true =>
    by_cases hu : s.users k = 0
    · simp [stateError, hv, hu, outcomeOf, writeOf, State.write]
    · simp [stateError, hv, hu, Nat.pos_of_ne_zero hu, outcomeOf, raise_eq]

/-- BIND checks its channel, then its slot, then the slot's state, as `raisedError` does (R204). -/
theorem execBind_outcome (c k : Index) (s : State) : execBind c k s = .next (commandOutcome (.bind c k) s) := by
  simp only [execBind, withChannel, withValidSlot, withSlot, commandOutcome, raisedError, channelOperand, slotOperand,
    outOfRange, stateError, decide_eq_true_eq, ← Nat.not_lt, ite_not]
  repeat' split
  all_goals rfl

/-- Every command completes: it is rejected with the error `raisedError` names, or it writes what `writeOf` says. -/
theorem exec_eq (i : Instr) (s : State) : exec i s = .next (commandOutcome i s) := by
  unfold exec
  cases i with
  | nop | rdstat | rderr | clrerr => rfl
  | cfg | poly | init | xout => exact withEmptySlot_outcome (e := none) rfl rfl rfl rfl
  | build k => exact execBuild_outcome k s
  | free k => exact execFree_outcome k s
  | bind c k => exact execBind_outcome c k s
  | unbind | rdchst => exact withChannel_outcome rfl rfl rfl
  | reset | sum | rdcrc | rdinfo => exact withEngine_outcome rfl rfl rfl rfl
  | upd0 | upd1 | upd2 => exact update_outcome rfl rfl rfl rfl
  | rdtab => exact withValidSlot_outcome rfl rfl rfl rfl
  | rdscfg | rdpoly | rdinit | rdxout => exact withSlot_outcome rfl rfl rfl

theorem commandOutcome_of_error {i : Instr} {s : State} {e : ErrorCode} (h : raisedError i s = some e) :
    commandOutcome i s = s.recordError e (encode i) := by
  rw [commandOutcome, h, outcomeOf]

theorem commandOutcome_of_none {i : Instr} {s : State} (h : raisedError i s = none) :
    commandOutcome i s = s.write (writeOf i s) := by
  rw [commandOutcome, h, outcomeOf]

end Sys2Proof.Machine
end

section
/-! Which commands may change a slot, a channel or RES, and what each puts there (spec/10_state.md R23 to R37). -/

namespace Sys2Proof.Machine

theorem exec_next {i : Instr} {s t : State} : exec i s = .next t ↔ t = commandOutcome i s := by
  simp [exec_eq, eq_comm]

theorem raisedError_eq_none {i : Instr} {s : State} :
    raisedError i s = none ↔
      outOfRange (channelOperand i) s.cfg.numChannels = false ∧ outOfRange (slotOperand i) s.cfg.numTables = false ∧
        stateError i s = none := by
  unfold raisedError
  split_ifs <;> simp_all

section
variable {i : Instr} {s : State} {k c : Index}

theorem slotOperand_exists (h : raisedError i s = none) (hk : slotOperand i = some k) :
    k.toNat < s.cfg.numTables := by
  simpa [hk, outOfRange] using (raisedError_eq_none.1 h).2.1

theorem channelOperand_exists (h : raisedError i s = none) (hc : channelOperand i = some c) :
    c.toNat < s.cfg.numChannels := by
  simpa [hc, outOfRange] using (raisedError_eq_none.1 h).1

theorem stateError_eq_none (h : raisedError i s = none) : stateError i s = none := (raisedError_eq_none.1 h).2.2

end

/-- No command touches the configuration or the host's side. -/
theorem commandOutcome_hostSide (i : Instr) (s : State) : HostSideSame s (commandOutcome i s) := by
  unfold commandOutcome outcomeOf
  split
  · exact ⟨rfl, rfl, rfl, rfl⟩
  · cases writeOf i s <;> exact ⟨rfl, rfl, rfl, rfl⟩

/-! ### Slots -/

/-- Command `i`, accepted in state `s`, gives slot `k` the value `v`. -/
inductive SlotCommand (s : State) (k : Index) : Instr → Slot → Prop where
  | cfg (w16 refin refout : Bool) (empty : (s.slot k).valid = false) :
      SlotCommand s k (.cfg k w16 refin refout)
        { s.slot k with scfg := { w16 := w16, refin := refin, refout := refout } }
  | poly (v : Half) (empty : (s.slot k).valid = false) : SlotCommand s k (.poly k v) { s.slot k with poly := v }
  | init (v : Half) (empty : (s.slot k).valid = false) : SlotCommand s k (.init k v) { s.slot k with init := v }
  | xout (v : Half) (empty : (s.slot k).valid = false) : SlotCommand s k (.xout k v) { s.slot k with xout := v }
  | build (empty : (s.slot k).valid = false) (ok : (s.slot k).inRange = true) :
      SlotCommand s k (.build k) { s.slot k with tab := (s.slot k).generated, valid := true }
  | free (unused : (s.slot k).valid = true → s.users k = 0) :
      SlotCommand s k (.free k) { s.slot k with valid := false }

theorem slotCommand_of_write {i : Instr} {s : State} {k : Index} {v : Slot} (he : raisedError i s = none)
    (hw : writeOf i s = .slot k v) : SlotCommand s k i v := by
  have hs := stateError_eq_none he
  cases i with
  | cfg => cases hw; exact .cfg _ _ _ (by simpa [stateError] using hs)
  | poly => cases hw; exact .poly _ (by simpa [stateError] using hs)
  | init => cases hw; exact .init _ (by simpa [stateError] using hs)
  | xout => cases hw; exact .xout _ (by simpa [stateError] using hs)
  | build =>
    cases hw
    simp only [stateError] at hs
    split_ifs at hs with hvalid hok
    exact .build (by simpa using hvalid) hok
  | free => cases hw; exact .free (by simpa [stateError] using hs)
  | _ => cases hw

theorem SlotCommand.slotOperand {i : Instr} {s : State} {k : Index} {v : Slot} (h : SlotCommand s k i v) :
    slotOperand i = some k := by
  cases h <;> rfl

/-- A command leaves a slot as it is, or is one of the six that write it. -/
theorem commandOutcome_slot (i : Instr) (s : State) (k : Index) :
    (commandOutcome i s).slot k = s.slot k ∨ SlotCommand s k i ((commandOutcome i s).slot k) := by
  cases he : raisedError i s with
  | some e => exact .inl (by simp [commandOutcome_of_error he])
  | none =>
    rw [commandOutcome_of_none he]
    cases hw : writeOf i s with
    | slot j v =>
      by_cases hk : k = j
      · subst hk
        exact .inr (by simpa [State.write] using slotCommand_of_write he hw)
      · exact .inl (by simp [State.write, hk])
    | _ => exact .inl rfl

/-- Settles O31: of the six commands that write a slot, only BUILD sets VALID and only FREE clears it. -/
theorem validSetByBuildClearedByFree : Obligations.ValidSetByBuildClearedByFree := by
  unfold Obligations.ValidSetByBuildClearedByFree
  intro i s t k h
  obtain rfl := exec_next.1 h
  obtain hk | hk := commandOutcome_slot i s k
  · simp_all
  · generalize (commandOutcome i s).slot k = v at hk ⊢
    cases hk with
    | build | free => simp_all
    | cfg _ _ _ empty | poly _ empty | init _ empty | xout _ empty => simp [empty]

/-- Settles O32: each of CFG, POLY, INIT and XOUT writes its own register of an empty slot, BUILD and FREE none. -/
theorem parametersWrittenOnlyByTheirCommands : Obligations.ParametersWrittenOnlyByTheirCommands := by
  unfold Obligations.ParametersWrittenOnlyByTheirCommands
  intro i s t k h
  obtain rfl := exec_next.1 h
  obtain hk | hk := commandOutcome_slot i s k
  · simp [hk]
  · generalize (commandOutcome i s).slot k = v at hk ⊢
    cases hk with
    | build | free => simp
    | cfg _ _ _ empty | poly _ empty | init _ empty | xout _ empty => simp [empty]

/-! ### Channels -/

/-- Command `i`, accepted in state `s`, gives channel `c` the value `v`. -/
inductive ChannelCommand (s : State) (c : Index) : Instr → Channel → Prop where
  | bind (k : Index) (valid : (s.slot k).valid = true) :
      ChannelCommand s c (.bind c k) { bound := true, tsel := k, crc := (s.slot k).initReg }
  | unbind : ChannelCommand s c (.unbind c) { bound := false, tsel := 0, crc := 0 }
  | reset (bound : (s.channel c).bound = true) :
      ChannelCommand s c (.reset c) { s.channel c with crc := (s.slot (s.channel c).tsel).initReg }
  | upd (d : Chunk) (bound : (s.channel c).bound = true) :
      ChannelCommand s c (d.instr c)
        { s.channel c with crc := (s.slot (s.channel c).tsel).foldSeq (s.channel c).crc d.bytes }

theorem channelCommand_of_write {i : Instr} {s : State} {c : Index} {v : Channel} (he : raisedError i s = none)
    (hw : writeOf i s = .channel c v) : ChannelCommand s c i v := by
  have hs := stateError_eq_none he
  cases i with
  | bind => cases hw; exact .bind _ (by simpa [stateError] using hs)
  | unbind => cases hw; exact .unbind
  | reset => cases hw; exact .reset (by simpa [stateError] using hs)
  | upd0 => cases hw; exact .upd .none (by simpa [stateError] using hs)
  | upd1 _ b0 => cases hw; exact .upd (.one b0) (by simpa [stateError] using hs)
  | upd2 _ b0 b1 => cases hw; exact .upd (.two b0 b1) (by simpa [stateError] using hs)
  | _ => cases hw

/-- A command leaves a channel as it is, or is one of the six that write it. -/
theorem commandOutcome_channel (i : Instr) (s : State) (c : Index) :
    (commandOutcome i s).channel c = s.channel c ∨ ChannelCommand s c i ((commandOutcome i s).channel c) := by
  cases he : raisedError i s with
  | some e => exact .inl (by simp [commandOutcome_of_error he])
  | none =>
    rw [commandOutcome_of_none he]
    cases hw : writeOf i s with
    | channel j v =>
      by_cases hc : c = j
      · subst hc
        exact .inr (by simpa [State.write] using channelCommand_of_write he hw)
      · exact .inl (by simp [State.write, hc])
    | _ => exact .inl rfl

/-- Settles O33: BIND and UNBIND write the whole channel, RESET and UPD its CRC only, and UPD without a byte not even
that. -/
theorem channelWrittenOnlyByEngineCommands : Obligations.ChannelWrittenOnlyByEngineCommands := by
  unfold Obligations.ChannelWrittenOnlyByEngineCommands
  intro i s t c h
  obtain rfl := exec_next.1 h
  obtain hc | hc := commandOutcome_channel i s c
  · simp_all
  · generalize (commandOutcome i s).channel c = v at hc ⊢
    cases hc with
    | bind | unbind => simp
    | reset bound => simp [bound]
    | upd d bound => cases d <;> simp [bound, Chunk.instr, Chunk.bytes]

/-! ### RES -/

/-- A command that raises no error and writes RES is one of SUM and the ten READ commands (R33). -/
theorem mnemonicOf_of_result {i : Instr} {s : State} {v : Word} (hw : writeOf i s = .result v) :
    mnemonicOf i ∈ ["SUM", "RDCRC", "RDTAB", "RDINFO", "RDSTAT", "RDERR", "RDSCFG", "RDPOLY", "RDINIT", "RDXOUT",
      "RDCHST"] := by
  cases i with
  | sum | rdcrc | rdtab | rdinfo | rdstat | rderr | rdscfg | rdpoly | rdinit | rdxout | rdchst => simp [mnemonicOf]
  | _ => cases hw

/-- A command leaves RES as it is, or raises no error and writes it. -/
theorem commandOutcome_res (i : Instr) (s : State) :
    (commandOutcome i s).res = s.res ∨ (raisedError i s = none ∧ ∃ v, writeOf i s = .result v) := by
  cases he : raisedError i s with
  | some e => exact .inl (by simp [commandOutcome_of_error he])
  | none =>
    rw [commandOutcome_of_none he]
    cases hw : writeOf i s with
    | result v => exact .inr ⟨rfl, v, rfl⟩
    | _ => exact .inl rfl

/-- Settles O34: a command that changes RES raises no error, and its write is one of RES. -/
theorem resWrittenOnlyByResultCommands : Obligations.ResWrittenOnlyByResultCommands := by
  unfold Obligations.ResWrittenOnlyByResultCommands
  intro i s t h
  obtain rfl := exec_next.1 h
  obtain hr | ⟨he, v, hw⟩ := commandOutcome_res i s
  · exact ⟨fun _ => hr, fun _ => hr⟩
  · exact ⟨fun hm => absurd (mnemonicOf_of_result hw) hm, fun hn => absurd he hn⟩

/-! ### The error record -/

/-- The checks of a command do not read the error record. -/
theorem raisedError_errorRecord (i : Instr) (s : State) (st : Status) (ec : Word) :
    raisedError i { s with status := st, errcmd := ec } = raisedError i s := rfl

/-- RDSTAT and RDERR are the only commands whose write depends on the error record. -/
theorem writeOf_errorRecord {i : Instr} (s : State) (st : Status) (ec : Word) (hstat : i ≠ .rdstat)
    (herr : i ≠ .rderr) : writeOf i { s with status := st, errcmd := ec } = writeOf i s := by
  cases i with
  | rdstat => exact absurd rfl hstat
  | rderr => exact absurd rfl herr
  | _ => rfl

/-- Whatever the error record holds, a write leaves the same slots, channels and RES. -/
theorem write_errorRecord (s : State) (st : Status) (ec : Word) (w : Write) :
    SlotsSame (s.write w) (State.write { s with status := st, errcmd := ec } w) ∧
    ChannelsSame (s.write w) (State.write { s with status := st, errcmd := ec } w) ∧
    (State.write { s with status := st, errcmd := ec } w).res = (s.write w).res := by
  cases w <;> exact ⟨fun _ => rfl, fun _ => rfl, rfl⟩

/-- Settles O28: the record decides neither the error nor, but for RDSTAT and RDERR, the write; and these two write RES
only. -/
theorem commandsDoNotDependOnErrorRecord : Obligations.CommandsDoNotDependOnErrorRecord := by
  unfold Obligations.CommandsDoNotDependOnErrorRecord
  intro i s st ec
  refine ⟨_, _, exec_eq i s, exec_eq i _, ?_⟩
  cases he : raisedError i s with
  | some e =>
    rw [commandOutcome_of_error he, commandOutcome_of_error ((raisedError_errorRecord i s st ec).trans he)]
    exact ⟨fun _ => rfl, fun _ => rfl, fun _ _ => rfl⟩
  | none =>
    rw [commandOutcome_of_none he, commandOutcome_of_none ((raisedError_errorRecord i s st ec).trans he)]
    by_cases hread : i = .rdstat ∨ i = .rderr
    · obtain rfl | rfl := hread
      · exact ⟨fun _ => rfl, fun _ => rfl, fun hstat _ => absurd rfl hstat⟩
      · exact ⟨fun _ => rfl, fun _ => rfl, fun _ herr => absurd rfl herr⟩
    · obtain ⟨hstat, herr⟩ := not_or.1 hread
      rw [writeOf_errorRecord s st ec hstat herr]
      obtain ⟨hslots, hchannels, hres⟩ := write_errorRecord s st ec (writeOf i s)
      exact ⟨hslots, hchannels, fun _ _ => hres⟩

end Sys2Proof.Machine
end

section
/-! What a step can do, said once, and what every step keeps of the host's side (spec/10_state.md R21, R22). -/

namespace Sys2Proof.Machine

/-- What an access makes of the state `s` in which it has just joined the history. -/
inductive AccessOutcome (s : State) : State → Prop where
  | noCommand : AccessOutcome s s
  | illegal (w : Word) : AccessOutcome s (s.recordError .illegal w)
  | command (i : Instr) : AccessOutcome s (commandOutcome i s)

theorem execute_next {w : Word} {s t : State} (h : execute w s = .next t) : AccessOutcome s t := by
  cases hd : decode w with
  | ok i =>
    rw [execute_of_ok hd, exec_next] at h
    exact h ▸ .command i
  | error r =>
    rw [execute_of_error hd] at h
    cases h
    exact .illegal w

theorem hostAccess_next {a : BusAccess} {s t : State} (h : hostAccess a s = .next t) :
    ∃ data, AccessOutcome (s.record a data) t := by
  unfold hostAccess at h
  split at h
  · split at h
    · exact ⟨_, execute_next h⟩
    · cases h; exact ⟨_, .noCommand⟩
    · cases h
  · split at h
    · cases h; exact ⟨_, .noCommand⟩
    · cases h; exact ⟨_, .noCommand⟩
    · cases h

/-- A step with a next state had nothing to do, or reset the block, or performed an access. -/
theorem step_next {s t : State} (h : step s = .next t) :
    (s.pending = [] ∧ t = s) ∨
    (∃ rest, s.pending = .blockReset :: rest ∧ t = State.blockReset { s with pending := rest }) ∨
    ∃ a rest data, s.pending = .access a :: rest ∧
      AccessOutcome (State.record { s with pending := rest } a data) t := by
  cases hp : s.pending with
  | nil =>
    simp only [step, stepInput, hp, Host.Outcome.next.injEq] at h
    exact .inl ⟨rfl, h.symm⟩
  | cons x rest =>
    cases x with
    | blockReset =>
      rw [step_of_blockReset hp] at h
      cases h
      exact .inr (.inl ⟨rest, rfl, rfl⟩)
    | access a =>
      rw [step_of_access hp] at h
      obtain ⟨data, ht⟩ := hostAccess_next h
      exact .inr (.inr ⟨a, rest, data, rfl, ht⟩)

/-- An access, once it has joined the history, touches neither the configuration nor the host's side. -/
theorem AccessOutcome.hostSide {s t : State} (h : AccessOutcome s t) : HostSideSame s t := by
  cases h with
  | noCommand | illegal => exact ⟨rfl, rfl, rfl, rfl⟩
  | command i => exact commandOutcome_hostSide i s

/-- Settles O17: the access is recorded before anything else, and what it does then leaves the host's side. -/
theorem commandIndexAdvancesByOne : Obligations.CommandIndexAdvancesByOne := by
  unfold Obligations.CommandIndexAdvancesByOne
  intro s t a rest hp h
  rw [step_of_access hp] at h
  obtain ⟨data, ht⟩ := hostAccess_next h
  obtain ⟨-, hpending, hindex, hhistory⟩ := ht.hostSide
  exact ⟨hindex, hpending, data, hhistory⟩

/-- Settles O57: nothing that a step can do writes the configuration. -/
theorem stepKeepsConfiguration : Obligations.StepKeepsConfiguration := by
  unfold Obligations.StepKeepsConfiguration
  intro s t h
  obtain ⟨-, rfl⟩ | ⟨rest, -, rfl⟩ | ⟨a, rest, data, -, ht⟩ := step_next h
  · rfl
  · rfl
  · exact ht.hostSide.1

end Sys2Proof.Machine
end

section
/-! The invariant of a block that has run from reset (spec/10_state.md R29, R31, R32, R34, R35): it holds after
reset, and every write of a command and every step keeps it. -/

namespace Sys2Proof.Machine

/-! ### Values that fit the width (R103, R134) -/

/-- A fitting value is one that masking leaves, so XOR of two fits (R134). -/
theorem fits_xor {w : Width} {a b : Half} (ha : fits w a = true) (hb : fits w b = true) :
    fits w (a ^^^ b) = true := by
  rw [← mask_of_fits ha, ← mask_of_fits hb, ← mask_xor]
  exact fits_mask w _

theorem fits_ushiftRight {w : Width} {v : Half} (h : fits w v = true) (n : Nat) : fits w (v >>> n) = true := by
  rw [fits_iff] at h ⊢
  rw [BitVec.toNat_ushiftRight]
  exact lt_of_le_of_lt (Nat.shiftRight_le _ _) h

/-- A reflected table's entries fit, being reflections (R101). -/
theorem fits_genEntry_of_refin (w : Width) (p : Half) (i : Byte) : fits w (genEntry w p true i) = true := by
  simp [genEntry]

section
variable {sl : Slot}

/-- The seed fits the width of a slot in range (R132, R103). -/
theorem fits_initReg (h : sl.inRange = true) : fits sl.width sl.initReg = true := by
  unfold Slot.initReg
  split
  · exact fits_reflect _ _
  · simp only [Slot.inRange, Bool.and_eq_true] at h
    exact h.1.2

/-- One byte keeps the register within the width, through the slot's generated table (R134). -/
theorem fits_fold (ht : sl.tab = sl.generated) {v : Half} (hv : fits sl.width v = true) (b : Byte) :
    fits sl.width (sl.fold v b) = true := by
  unfold Slot.fold
  split
  next hrefin =>
    refine fits_xor ?_ (fits_ushiftRight hv 8)
    rw [Slot.tabRead, ht, Slot.generated, entryOf_genTable, hrefin]
    exact fits_genEntry_of_refin _ _ _
  next => exact fits_mask _ _

theorem fits_foldSeq (ht : sl.tab = sl.generated) (d : List Byte) {v : Half} (hv : fits sl.width v = true) :
    fits sl.width (sl.foldSeq v d) = true := by
  induction d generalizing v with
  | nil => exact hv
  | cons b d ih => exact ih (fits_fold ht hv b)

end

/-! ### After reset -/

/-- A block whose slots are empty, whose channels are unbound and whose record is clear meets the invariant. -/
theorem inv_of_cleared {s : State} (hcfg : s.cfg.Valid) (hslots : ∀ k, (s.slot k).valid = false)
    (hchannels : ∀ c, s.channel c = Channel.reset) (hstatus : s.status = Status.clear) (herrcmd : s.errcmd = 0)
    (hindex : s.index = s.history.length) : s.Inv := by
  refine ⟨hcfg, fun k hvalid => ?slot, fun c => ?channel, ?error, hindex⟩
  case slot => simp [hslots k] at hvalid
  case channel => simp [ChannelInv, hchannels c, Channel.reset]
  case error => simp [ErrorInv, hstatus, herrcmd, Status.clear]

theorem inv_resetFor {cfg : Config} (h : cfg.Valid) : (State.resetFor cfg).Inv :=
  inv_of_cleared h (fun k => by simp [Slot.reset]) (channel_resetFor cfg) rfl rfl rfl

/-- Settles O54: the reference configuration is one of those R6 and R7 allow. -/
theorem resetMeetsInvariant : Obligations.ResetMeetsInvariant := by
  unfold Obligations.ResetMeetsInvariant
  exact ⟨inv_resetFor (by decide), fun _ => inv_resetFor⟩

/-- A clear record reads as 0 (R34). -/
@[simp] theorem word_clear : Status.clear.word = 0 := by decide

/-- Settles O18: each register is read from the reset state of its slot or channel. -/
theorem resetValues : Obligations.ResetValues := by
  unfold Obligations.ResetValues
  refine ⟨rfl, fun cfg k c => ?_⟩
  simp only [slot_resetFor, channel_resetFor]
  exact ⟨rfl, rfl, rfl, rfl, rfl, rfl, rfl, rfl, rfl, rfl, word_clear, rfl, rfl, rfl, rfl⟩

/-! ### The writes of a command -/

section
variable {s : State}

/-- Recording keeps the invariant: the first error sets a code of R201, a later one only MULTI. -/
theorem inv_recordError (h : s.Inv) (e : ErrorCode) (w : Word) : (s.recordError e w).Inv := by
  obtain ⟨hcfg, hslots, hchannels, ⟨hcode, -⟩, hindex⟩ := h
  refine ⟨hcfg, hslots, hchannels, ⟨fun _ => ?_, fun herr => ?_⟩, hindex⟩
  · cases hs : s.status.err with
    | true => simpa [Status.record, hs] using hcode hs
    | false => simpa [Status.record, hs] using code_range e
  · simp at herr

theorem inv_clearErrors (h : s.Inv) : s.clearErrors.Inv := by
  obtain ⟨hcfg, hslots, hchannels, -, hindex⟩ := h
  exact ⟨hcfg, hslots, hchannels, ⟨fun herr => (by cases herr), fun _ => ⟨rfl, rfl, rfl⟩⟩, hindex⟩

/-- A slot that no channel uses may be given any value that is empty, or valid as R29 and R52 say. -/
theorem inv_setSlot (h : s.Inv) {k : Index} {v : Slot}
    (hfree : ∀ c, (s.channel c).bound = true → (s.channel c).tsel ≠ k)
    (hv : v.valid = true → k.toNat < s.cfg.numTables ∧ v.inRange = true ∧ v.tab = v.generated) :
    (s.setSlot k v).Inv := by
  obtain ⟨hcfg, hslots, hchannels, herror, hindex⟩ := h
  refine ⟨hcfg, fun j => ?_, fun c => ⟨fun hbound => ?_, (hchannels c).2⟩, herror, hindex⟩
  · by_cases hj : j = k
    · subst hj
      simpa [SlotInv] using hv
    · simpa [SlotInv, hj] using hslots j
  · simpa [hfree c hbound] using (hchannels c).1 hbound

/-- A channel may be given any value that meets what R31 and R32 say of it. -/
theorem inv_setChannel (h : s.Inv) {c : Index} {v : Channel}
    (hbound : v.bound = true → c.toNat < s.cfg.numChannels ∧ v.tsel.toNat < s.cfg.numTables ∧
      (s.slot v.tsel).valid = true ∧ fits (s.slot v.tsel).width v.crc = true)
    (hunbound : v.bound = false → v.tsel = 0 ∧ v.crc = 0) : (s.setChannel c v).Inv := by
  obtain ⟨hcfg, hslots, hchannels, herror, hindex⟩ := h
  refine ⟨hcfg, hslots, fun j => ?_, herror, hindex⟩
  by_cases hj : j = c
  · subst hj
    simpa [ChannelInv] using ⟨hbound, hunbound⟩
  · simpa [ChannelInv, hj] using hchannels j

/-- A bound channel's CRC may be given any value that fits (R32). -/
theorem inv_setCrc (h : s.Inv) {c : Index} {v : Half} (hb : (s.channel c).bound = true)
    (hv : fits (s.slot (s.channel c).tsel).width v = true) : (s.setChannel c { s.channel c with crc := v }).Inv := by
  obtain ⟨-, -, hchannels, -⟩ := id h
  obtain ⟨hexists, htsel, hvalid, -⟩ := (hchannels c).1 hb
  exact inv_setChannel h (fun _ => ⟨hexists, htsel, hvalid, hv⟩) (fun hn => by simp [hb] at hn)

/-- No channel references an empty slot (R31). -/
theorem tsel_ne_of_empty (h : s.Inv) {k : Index} (hk : (s.slot k).valid = false) (c : Index)
    (hb : (s.channel c).bound = true) : (s.channel c).tsel ≠ k := by
  obtain ⟨-, -, hchannels, -⟩ := h
  obtain ⟨-, -, hvalid, -⟩ := (hchannels c).1 hb
  rintro rfl
  simp [hk] at hvalid

/-- No channel references a slot without users (R36). -/
theorem tsel_ne_of_users_eq_zero (h : s.Inv) {k : Index} (hk : s.users k = 0) (c : Index)
    (hb : (s.channel c).bound = true) : (s.channel c).tsel ≠ k := by
  obtain ⟨-, -, hchannels, -⟩ := h
  obtain ⟨hexists, -⟩ := (hchannels c).1 hb
  intro htsel
  exact absurd ((users_pos s k).2 ⟨c, hexists, hb, htsel⟩) (by simp [hk])

/-- The commands that write a slot keep the invariant: the slot has no users, and is left empty or holds its generated
table. -/
theorem inv_slotCommand (h : s.Inv) {i : Instr} {k : Index} {v : Slot} (he : raisedError i s = none)
    (hc : SlotCommand s k i v) : (s.setSlot k v).Inv := by
  have hexists := slotOperand_exists he hc.slotOperand
  cases hc with
  | cfg _ _ _ empty | poly _ empty | init _ empty | xout _ empty =>
    exact inv_setSlot h (tsel_ne_of_empty h empty) (fun hvalid => by simp [empty] at hvalid)
  | build empty ok => exact inv_setSlot h (tsel_ne_of_empty h empty) (fun _ => ⟨hexists, ok, rfl⟩)
  | free unused =>
    refine inv_setSlot h ?_ (fun hvalid => nomatch hvalid)
    cases hv : (s.slot k).valid with
    | false => exact tsel_ne_of_empty h hv
    | true => exact tsel_ne_of_users_eq_zero h (unused hv)

/-- The commands that write a channel keep the invariant: seed and fold fit the width of its slot. -/
theorem inv_channelCommand (h : s.Inv) {i : Instr} {c : Index} {v : Channel} (he : raisedError i s = none)
    (hc : ChannelCommand s c i v) : (s.setChannel c v).Inv := by
  obtain ⟨-, hslots, hchannels, -⟩ := id h
  cases hc with
  | bind k valid =>
    obtain ⟨htsel, hrange, -⟩ := hslots k valid
    exact inv_setChannel h (fun _ => ⟨channelOperand_exists he rfl, htsel, valid, fits_initReg hrange⟩)
      (fun hn => nomatch hn)
  | unbind => exact inv_setChannel h (fun hb => nomatch hb) (fun _ => ⟨rfl, rfl⟩)
  | reset bound =>
    obtain ⟨-, -, hvalid, -⟩ := (hchannels c).1 bound
    obtain ⟨-, hrange, -⟩ := hslots _ hvalid
    exact inv_setCrc h bound (fits_initReg hrange)
  | upd d bound =>
    obtain ⟨-, -, hvalid, hcrc⟩ := (hchannels c).1 bound
    obtain ⟨-, -, htab⟩ := hslots _ hvalid
    exact inv_setCrc h bound (fits_foldSeq htab d.bytes hcrc)

theorem inv_commandOutcome (h : s.Inv) (i : Instr) : (commandOutcome i s).Inv := by
  cases he : raisedError i s with
  | some e => exact commandOutcome_of_error he ▸ inv_recordError h e _
  | none =>
    rw [commandOutcome_of_none he]
    cases hw : writeOf i s with
    | nothing | result => exact h
    | slot k v => exact inv_slotCommand h he (slotCommand_of_write he hw)
    | channel c v => exact inv_channelCommand h he (channelCommand_of_write he hw)
    | clearErrors => exact inv_clearErrors h

/-! ### The step -/

/-- A performed access adds one to the index and to the history. -/
theorem inv_record (h : s.Inv) (a : BusAccess) (data : Option Word) : (s.record a data).Inv := by
  obtain ⟨hcfg, hslots, hchannels, herror, hindex⟩ := h
  exact ⟨hcfg, hslots, hchannels, herror, by simp [hindex]⟩

/-- Block reset leaves only empty slots and unbound channels (R230). -/
theorem inv_blockReset (h : s.cfg.Valid) : s.blockReset.Inv :=
  inv_of_cleared h (fun k => by simp [Slot.blockReset, Slot.reset]) (channel_blockReset s) rfl rfl rfl

theorem AccessOutcome.inv {t : State} (h : s.Inv) (ht : AccessOutcome s t) : t.Inv := by
  cases ht with
  | noCommand => exact h
  | illegal w => exact inv_recordError h .illegal w
  | command i => exact inv_commandOutcome h i

end

/-- Settles O55: by what a step can do; a command keeps the invariant by the one write it makes. -/
theorem stepKeepsInvariant : Obligations.StepKeepsInvariant := by
  unfold Obligations.StepKeepsInvariant
  intro s t h hstep
  obtain ⟨-, rfl⟩ | ⟨rest, -, rfl⟩ | ⟨a, rest, data, -, ht⟩ := step_next hstep
  · exact h
  · exact inv_blockReset h.1
  · have hrest : State.Inv { s with pending := rest } := h
    exact ht.inv (inv_record hrest a data)

end Sys2Proof.Machine
end

section
/-! Two machines that differ at most in the table memory of empty slots take the same step
(spec/10_state.md R38, spec/20_memory.md R53). -/

namespace Sys2Proof.Machine

theorem SlotAlike.refl (a : Slot) : SlotAlike a a := ⟨rfl, rfl, rfl, rfl, rfl, fun _ => rfl⟩

section
variable {a b : Slot}

/-- Alike slots are equal but for the table. -/
theorem SlotAlike.eq_withTab (h : SlotAlike a b) : b = { a with tab := b.tab } := by
  obtain ⟨hscfg, hpoly, hinit, hxout, hvalid, -⟩ := h
  rw [← hscfg, ← hpoly, ← hinit, ← hxout, ← hvalid]

/-- A valid slot has no other alike to it. -/
theorem SlotAlike.eq_of_valid (h : SlotAlike a b) (hv : a.valid = true) : b = a := by
  obtain ⟨-, -, -, -, -, htab⟩ := id h
  rw [h.eq_withTab, htab hv]

theorem SlotAlike.inRange_eq (h : SlotAlike a b) : b.inRange = a.inRange := by
  rw [h.eq_withTab]
  rfl

theorem SlotAlike.generated_eq (h : SlotAlike a b) : b.generated = a.generated := by
  rw [h.eq_withTab]
  rfl

end

/-! ### What alike machines agree on -/

section
variable {s t : State}

/-- The channels one by one are the channels. -/
theorem channels_eq_of_same (h : ChannelsSame s t) : t.channels = s.channels :=
  Vector.ext fun n hn => by simpa [State.channel, Nat.mod_eq_of_lt hn] using h (BitVec.ofNat 4 n)

theorem Alike.slot_eq_of_valid (h : Alike s t) {k : Index} (hv : (s.slot k).valid = true) : t.slot k = s.slot k :=
  (h.1 k).eq_of_valid hv

theorem Alike.users_eq (h : Alike s t) (k : Index) : t.users k = s.users k := by
  obtain ⟨-, hchannels, -, -, hcfg, -⟩ := h
  simp only [State.users, channels_eq_of_same hchannels, hcfg]

/-- No check of a command reads a table. -/
theorem Alike.raisedError_eq (h : Alike s t) (i : Instr) : raisedError i t = raisedError i s := by
  have husers := h.users_eq
  obtain ⟨hslots, hchannels, -, -, hcfg, -⟩ := h
  have hvalid (k : Index) : (t.slot k).valid = (s.slot k).valid := by simp [hslots k]
  have hrange (k : Index) : (t.slot k).inRange = (s.slot k).inRange := (hslots k).inRange_eq
  simp only [raisedError, stateError, hcfg, hvalid, hrange, hchannels, husers]

/-- In a state that meets the invariant, the slot of a bound channel is valid, so the other machine's is the same. -/
theorem Alike.engine_eq (h : Alike s t) (hinv : s.Inv) {c : Index} (hb : (s.channel c).bound = true) :
    t.slot (s.channel c).tsel = s.slot (s.channel c).tsel := by
  obtain ⟨-, -, hchannels, -⟩ := hinv
  obtain ⟨-, -, hvalid, -⟩ := (hchannels c).1 hb
  exact h.slot_eq_of_valid hvalid

/-! ### The writes of one command in alike machines -/

/-- The same write, or writes of one slot with alike values. -/
inductive WritesAlike : Write → Write → Prop where
  | same (w : Write) : WritesAlike w w
  | slot (k : Index) {v v' : Slot} (h : SlotAlike v v') : WritesAlike (.slot k v) (.slot k v')

theorem WritesAlike.of_eq {w w' : Write} (h : w' = w) : WritesAlike w w' := h ▸ .same w

/-- An accepted command writes alike: it reads a table of a valid slot only. -/
theorem Alike.writesAlike (h : Alike s t) (hinv : s.Inv) {i : Instr} (he : raisedError i s = none) :
    WritesAlike (writeOf i s) (writeOf i t) := by
  have hs := stateError_eq_none he
  have hgenerated (k : Index) : (t.slot k).generated = (s.slot k).generated := (h.1 k).generated_eq
  obtain ⟨hslots, hchannels, -, ⟨hstatus, herrcmd⟩, -⟩ := id h
  cases i with
  | nop | clrerr => exact .same _
  | cfg k | poly k | init k | xout k | build k | free k =>
    exact .slot k (by simp +contextual [SlotAlike, hslots k, hgenerated])
  | bind c k | rdtab k =>
    have hk : t.slot k = s.slot k := h.slot_eq_of_valid (by simpa [stateError] using hs)
    exact .of_eq (by simp [writeOf, hk])
  | reset c | upd0 c | upd1 c | upd2 c | sum c | rdcrc c | rdinfo c =>
    have hengine := h.engine_eq hinv (c := c) (by simpa [stateError] using hs)
    exact .of_eq (by simp [writeOf, feedWrite, hchannels, hengine])
  | unbind c | rdchst c => exact .of_eq (by simp [writeOf, hchannels])
  | rdscfg k | rdpoly k | rdinit k | rdxout k => exact .of_eq (by simp [writeOf, hslots k])
  | rdstat | rderr => exact .of_eq (by simp [writeOf, hstatus, herrcmd])

theorem Alike.setSlot (h : Alike s t) (k : Index) {v v' : Slot} (hv : SlotAlike v v') :
    Alike (s.setSlot k v) (t.setSlot k v') := by
  obtain ⟨hslots, hrest⟩ := h
  refine ⟨fun j => ?_, hrest⟩
  by_cases hj : j = k
  · simpa [hj] using hv
  · simpa [hj] using hslots j

theorem Alike.setChannel (h : Alike s t) (c : Index) (v : Channel) : Alike (s.setChannel c v) (t.setChannel c v) := by
  obtain ⟨hslots, hchannels, hrest⟩ := h
  exact ⟨hslots, fun j => by simp [hchannels j], hrest⟩

theorem Alike.write (h : Alike s t) {w w' : Write} (hw : WritesAlike w w') : Alike (s.write w) (t.write w') := by
  obtain ⟨hslots, hchannels, hres, hrecord, hhost⟩ := id h
  cases hw with
  | slot k hv => exact h.setSlot k hv
  | same w =>
    cases w with
    | nothing => exact h
    | slot k v => exact h.setSlot k (.refl v)
    | channel c v => exact h.setChannel c v
    | result v => exact ⟨hslots, hchannels, rfl, hrecord, hhost⟩
    | clearErrors => exact ⟨hslots, hchannels, hres, ⟨rfl, rfl⟩, hhost⟩

theorem Alike.recordError (h : Alike s t) (e : ErrorCode) (w : Word) :
    Alike (s.recordError e w) (t.recordError e w) := by
  obtain ⟨hslots, hchannels, hres, ⟨hstatus, herrcmd⟩, hhost⟩ := h
  exact ⟨hslots, hchannels, hres, ⟨by simp [hstatus], by simp [hstatus, herrcmd]⟩, hhost⟩

theorem Alike.commandOutcome (h : Alike s t) (hinv : s.Inv) (i : Instr) :
    Alike (commandOutcome i s) (commandOutcome i t) := by
  cases he : raisedError i s with
  | some e =>
    rw [commandOutcome_of_error he, commandOutcome_of_error ((h.raisedError_eq i).trans he)]
    exact h.recordError e _
  | none =>
    rw [commandOutcome_of_none he, commandOutcome_of_none ((h.raisedError_eq i).trans he)]
    exact h.write (h.writesAlike hinv he)

/-! ### The step of alike machines -/

theorem Alike.execute (h : Alike s t) (hinv : s.Inv) (w : Word) : OutcomesAlike (execute w s) (execute w t) := by
  cases hd : decode w with
  | ok i =>
    rw [execute_of_ok hd, execute_of_ok hd, exec_eq, exec_eq]
    exact h.commandOutcome hinv i
  | error r =>
    rw [execute_of_error hd, execute_of_error hd]
    exact h.recordError .illegal w

theorem Alike.record (h : Alike s t) (a : BusAccess) (data : Option Word) :
    Alike (s.record a data) (t.record a data) := by
  obtain ⟨hslots, hchannels, hres, hrecord, hcfg, hpending, hindex, hhistory⟩ := h
  exact ⟨hslots, hchannels, hres, hrecord, hcfg, hpending, by simp [hindex], by simp [hhistory]⟩

/-- The register an access reaches depends on the configuration alone, and a read of RES returns the same data. -/
theorem Alike.hostAccess (h : Alike s t) (hinv : s.Inv) (a : BusAccess) :
    OutcomesAlike (hostAccess a s) (hostAccess a t) := by
  obtain ⟨-, -, hres, -, hcfg, -⟩ := id h
  cases a with
  | write addr bits data =>
    simp only [Machine.hostAccess, hcfg]
    split
    · exact (h.record _ none).execute (inv_record hinv _ none) data
    · exact h.record _ none
    · rfl
  | read addr bits =>
    simp only [Machine.hostAccess, hcfg, hres]
    split
    · exact h.record _ (some 0)
    · exact h.record _ (some s.res)
    · rfl

/-- Block reset leaves every slot empty, whatever its table memory holds. -/
theorem Alike.blockReset (h : Alike s t) : Alike s.blockReset t.blockReset := by
  obtain ⟨-, -, -, -, hcfg, hpending, -, -⟩ := h
  refine ⟨fun k => ?_, fun c => by simp, rfl, ⟨rfl, rfl⟩, hcfg, hpending, rfl, rfl⟩
  simp [SlotAlike, Slot.blockReset, Slot.reset]

theorem Alike.withPending (h : Alike s t) (rest : List HostInput) :
    Alike { s with pending := rest } { t with pending := rest } := by
  obtain ⟨hslots, hchannels, hres, hrecord, hcfg, -, hindex, hhistory⟩ := h
  exact ⟨hslots, hchannels, hres, hrecord, hcfg, rfl, hindex, hhistory⟩

end

/-- Settles O56: the machines have the same inputs pending, and each input leaves them alike: a command reads the table
of a valid slot only, BUILD writes the same table in both, and FREE leaves the slot empty. -/
theorem emptyTablesAreUnobservable : Obligations.EmptyTablesAreUnobservable := by
  unfold Obligations.EmptyTablesAreUnobservable
  intro s t hinv h
  obtain ⟨-, -, -, -, -, hpending, -⟩ := id h
  cases hp : s.pending with
  | nil =>
    simp only [step, stepInput, hpending, hp]
    exact h
  | cons x rest =>
    have hrest := h.withPending rest
    cases x with
    | blockReset =>
      rw [step_of_blockReset hp, step_of_blockReset (hpending.trans hp)]
      exact hrest.blockReset
    | access a =>
      rw [step_of_access hp, step_of_access (hpending.trans hp)]
      exact hrest.hostAccess hinv a

end Sys2Proof.Machine
end

section
/-! The memory map and the ordering rules (spec/20_memory.md): table memory (R50 to R53), bus accesses (R54, R55), what
every command leaves alone (R58, R63), repeated commands (R62) and commands on different channels (R59). -/

namespace Sys2Proof.Machine

/-! ### Rejected commands -/

/-- The recording operation is the one R203 describes. -/
theorem errorRecorded_recordError (e : ErrorCode) (w : Word) (s : State) : ErrorRecorded e w s (s.recordError e w) :=
  ⟨by simp, fun h => by simp [Status.record, h], fun h => by simp [Status.record, h]⟩

theorem rejects_of_raisedError {i : Instr} {s : State} {e : ErrorCode} (h : raisedError i s = some e) :
    Rejects i s e :=
  ⟨_, exec_next.2 (commandOutcome_of_error h).symm, errorRecorded_recordError e _ s,
    fun _ => rfl, fun _ => rfl, rfl, rfl, rfl, rfl, rfl⟩

/-! ### What a command leaves of slots and channels -/

section
variable {i : Instr} {s : State} {c k : Index}

theorem SlotCommand.channelOperand {v : Slot} (h : SlotCommand s k i v) : channelOperand i = none := by
  cases h <;> rfl

theorem ChannelCommand.channelOperand {v : Channel} (h : ChannelCommand s c i v) : channelOperand i = some c := by
  cases h with
  | upd d => cases d <;> rfl
  | _ => rfl

/-- A slot outside the build is left alone. -/
theorem commandOutcome_slot_of_le (hk : s.cfg.numTables ≤ k.toNat) : (commandOutcome i s).slot k = s.slot k := by
  cases he : raisedError i s with
  | some e => simp [commandOutcome_of_error he]
  | none =>
    obtain hsame | hcmd := commandOutcome_slot i s k
    · exact hsame
    · exact absurd (slotOperand_exists he hcmd.slotOperand) (Nat.not_lt.2 hk)

/-- A channel outside the build is left alone. -/
theorem commandOutcome_channel_of_le (hc : s.cfg.numChannels ≤ c.toNat) :
    (commandOutcome i s).channel c = s.channel c := by
  cases he : raisedError i s with
  | some e => simp [commandOutcome_of_error he]
  | none =>
    obtain hsame | hcmd := commandOutcome_channel i s c
    · exact hsame
    · exact absurd (channelOperand_exists he hcmd.channelOperand) (Nat.not_lt.2 hc)

/-- A command with a channel operand writes no slot. -/
theorem commandOutcome_slot_of_channelOperand (hi : channelOperand i = some c) (k : Index) :
    (commandOutcome i s).slot k = s.slot k := by
  obtain hsame | hcmd := commandOutcome_slot i s k
  · exact hsame
  · exact absurd (hcmd.channelOperand.symm.trans hi) (by simp)

/-- A command with a channel operand writes no other channel. -/
theorem commandOutcome_channel_of_ne (hi : channelOperand i = some c) {d : Index} (hd : d ≠ c) :
    (commandOutcome i s).channel d = s.channel d := by
  obtain hsame | hcmd := commandOutcome_channel i s d
  · exact hsame
  · exact absurd (Option.some.inj (hcmd.channelOperand.symm.trans hi)) hd

end

/-- Settles O30: of the six commands that write a slot only BUILD writes its table, and BUILD is accepted on an empty
slot only. -/
theorem tablesImmutableWhileValid : Obligations.TablesImmutableWhileValid := by
  unfold Obligations.TablesImmutableWhileValid
  intro i s t k h
  obtain rfl := exec_next.1 h
  obtain hk | hk := commandOutcome_slot i s k
  · simp [hk]
  · generalize (commandOutcome i s).slot k = v at hk ⊢
    cases hk with
    | build empty => simp [empty]
    | cfg | poly | init | xout | free => exact ⟨fun _ => rfl, fun _ => rfl⟩

/-- Settles O35: every command has an outcome, and one with an operand outside the build is rejected. -/
theorem commandsStayInsideTheBuild : Obligations.CommandsStayInsideTheBuild := by
  unfold Obligations.CommandsStayInsideTheBuild
  intro i s
  exact ⟨_, exec_eq i s, commandOutcome_hostSide i s, fun _ => commandOutcome_slot_of_le,
    fun _ => commandOutcome_channel_of_le⟩

/-! ### Repeated commands (R62) -/

@[simp] theorem write_cfg (s : State) (w : Write) : (s.write w).cfg = s.cfg := by
  cases w <;> rfl

/-- A write made twice is made once. -/
@[simp] theorem write_write (s : State) (w : Write) : (s.write w).write w = s.write w := by
  cases w with
  | nothing | result | clearErrors => rfl
  | slot k v => exact setSlot_setSlot s k v v
  | channel c v => exact setChannel_setChannel s c v v

section
variable {i : Instr} {s : State}

/-- After the write of an accepted command the index checks pass again, and its state check decides. -/
theorem raisedError_write (he : raisedError i s = none) (w : Write) :
    raisedError i (s.write w) = stateError i (s.write w) := by
  obtain ⟨hchannel, hslot, -⟩ := raisedError_eq_none.1 he
  simp [raisedError, hchannel, hslot]

/-- The state check of an accepted command passes after its write, unless the command is BUILD, which makes its slot
valid. -/
theorem stateError_write_writeOf (hs : stateError i s = none) (hbuild : ∀ k, i ≠ .build k) :
    stateError i (s.write (writeOf i s)) = none := by
  cases i with
  | build k => exact absurd rfl (hbuild k)
  | cfg | poly | init | xout => simpa [stateError, writeOf, State.write] using hs
  | free => simp [stateError, writeOf, State.write]
  | reset | upd0 | upd1 | upd2 => simpa [stateError, writeOf, feedWrite, State.write] using hs
  | nop | unbind | clrerr => rfl
  | bind | sum | rdcrc | rdtab | rdinfo | rdstat | rderr | rdscfg | rdpoly | rdinit | rdxout | rdchst => exact hs

/-- No command but UPD with bytes reads what it writes. -/
theorem writeOf_write_writeOf (hupd1 : ∀ c b, i ≠ .upd1 c b) (hupd2 : ∀ c b b', i ≠ .upd2 c b b') :
    writeOf i (s.write (writeOf i s)) = writeOf i s := by
  cases i with
  | upd1 c b => exact absurd rfl (hupd1 c b)
  | upd2 c b b' => exact absurd rfl (hupd2 c b b')
  | cfg | poly | init | xout | free => simp [writeOf, State.write]
  | build => simp [writeOf, State.write, Slot.generated, Slot.width]
  | reset => simp [writeOf, State.write]
  | upd0 => simp [writeOf, feedWrite, State.write]
  | nop | bind | unbind | sum | clrerr => rfl
  | rdcrc | rdtab | rdinfo | rdstat | rderr | rdscfg | rdpoly | rdinit | rdxout | rdchst => rfl

end

/-- BUILD leaves its slot valid, so its state check fails the next time. -/
theorem stateError_build_write (k : Index) (s : State) :
    stateError (.build k) (s.write (writeOf (.build k) s)) = some .slotLocked := by
  simp [stateError, writeOf, State.write]

/-- Settles O36: a repeated command passes its checks again, BUILD excepted, and writes what is already there. -/
theorem repeatedCommandsAreIdempotent : Obligations.RepeatedCommandsAreIdempotent := by
  unfold Obligations.RepeatedCommandsAreIdempotent
  intro i s t he h
  obtain rfl := exec_next.1 h
  rw [commandOutcome_of_none he]
  refine ⟨fun hupd1 hupd2 hbuild => ?_, ?_⟩
  · have hagain : raisedError i (s.write (writeOf i s)) = none :=
      (raisedError_write he _).trans (stateError_write_writeOf (stateError_eq_none he) hbuild)
    rw [exec_eq, commandOutcome_of_none hagain, writeOf_write_writeOf hupd1 hupd2, write_write]
  · rintro k rfl
    exact rejects_of_raisedError ((raisedError_write he _).trans (stateError_build_write k s))

/-! ### Commands on different channels (R59) -/

/-- `s` and `t` agree on all that a command on channel `c` reads of the configuration, the slots and the channels. -/
abbrev SameForChannel (c : Index) (s t : State) : Prop := t.cfg = s.cfg ∧ SlotsSame s t ∧ t.channel c = s.channel c

section
variable {i j : Instr} {c d : Index} {s t : State}

theorem SameForChannel.raisedError_eq (h : SameForChannel c s t) (hi : channelOperand i = some c) :
    raisedError i t = raisedError i s := by
  obtain ⟨hcfg, hslots, hchannel⟩ := h
  have hstate : stateError i t = stateError i s := by
    cases i with
    | bind => cases hi; simp [stateError, hslots]
    | reset | upd0 | upd1 | upd2 | sum | rdcrc | rdinfo => cases hi; simp [stateError, hchannel]
    | unbind | rdchst => rfl
    | _ => cases hi
  simp only [raisedError, hcfg, hstate]

/-- The write of a command on channel `c` gives the channel the same value, if it writes it at all. -/
theorem SameForChannel.write_channel (h : SameForChannel c s t) (hi : channelOperand i = some c) :
    (t.write (writeOf i t)).channel c = (s.write (writeOf i s)).channel c := by
  obtain ⟨-, hslots, hchannel⟩ := h
  cases i with
  | bind | unbind | reset => cases hi; simp [writeOf, State.write, hslots, hchannel]
  | upd0 | upd1 | upd2 => cases hi; simp [writeOf, feedWrite, State.write, hslots, hchannel]
  | sum | rdcrc | rdinfo | rdchst => exact hchannel
  | _ => cases hi

/-- What a command does to its channel depends on the configuration, the slots and that channel alone. -/
theorem SameForChannel.commandOutcome_channel (h : SameForChannel c s t) (hi : channelOperand i = some c) :
    (commandOutcome i t).channel c = (commandOutcome i s).channel c := by
  cases he : raisedError i s with
  | some e =>
    obtain ⟨-, -, hchannel⟩ := id h
    simp [commandOutcome_of_error he, commandOutcome_of_error ((h.raisedError_eq hi).trans he), hchannel]
  | none =>
    rw [commandOutcome_of_none he, commandOutcome_of_none ((h.raisedError_eq hi).trans he)]
    exact h.write_channel hi

/-- A command on another channel leaves all that a command on channel `c` reads. -/
theorem sameForChannel_commandOutcome (hj : channelOperand j = some d) (hcd : c ≠ d) (s : State) :
    SameForChannel c s (commandOutcome j s) := by
  obtain ⟨hcfg, -⟩ := commandOutcome_hostSide j s
  exact ⟨hcfg, commandOutcome_slot_of_channelOperand hj, commandOutcome_channel_of_ne hj hcd⟩

/-- Of two commands on different channels the first decides its channel, whether the other comes before or after. -/
theorem commandOutcome_channel_comm (hi : channelOperand i = some c) (hj : channelOperand j = some d) (hcd : c ≠ d)
    (s : State) :
    (commandOutcome i (commandOutcome j s)).channel c = (commandOutcome j (commandOutcome i s)).channel c := by
  calc (commandOutcome i (commandOutcome j s)).channel c
    _ = (commandOutcome i s).channel c := (sameForChannel_commandOutcome hj hcd s).commandOutcome_channel hi
    _ = (commandOutcome j (commandOutcome i s)).channel c := (commandOutcome_channel_of_ne hj hcd).symm

end

theorem runInstrs_pair (i j : Instr) (s : State) :
    runInstrs [i, j] s = .next (commandOutcome j (commandOutcome i s)) := by
  simp [runInstrs, exec_eq, andThen]

/-- Settles O37: each command decides its own channel from the slots and that channel, neither of which the other
changes, and all other channels and the slots are left alone. -/
theorem commandsOnDifferentChannelsCommute : Obligations.CommandsOnDifferentChannelsCommute := by
  unfold Obligations.CommandsOnDifferentChannelsCommute
  intro i j c d s hi hj hcd
  refine ⟨_, _, runInstrs_pair i j s, runInstrs_pair j i s, fun e => ?_, fun k => ?_⟩
  · by_cases hec : e = c
    · subst hec
      exact commandOutcome_channel_comm hi hj hcd s
    · by_cases hed : e = d
      · subst hed
        exact (commandOutcome_channel_comm hj hi hcd.symm s).symm
      · simp only [commandOutcome_channel_of_ne hi hec, commandOutcome_channel_of_ne hj hed]
  · simp only [commandOutcome_slot_of_channelOperand hi, commandOutcome_slot_of_channelOperand hj]

/-! ### The bus map (R54, R55) -/

/-- A read of CMD returns 0 and has no effect. -/
theorem hostAccess_cmdRead (s : State) :
    hostAccess (.read s.cfg.base 32) s = .next (s.record (.read s.cfg.base 32) (some 0)) := by
  have h : busRegister s.cfg s.cfg.base 32 = .ok .cmd := busRegister_ok.2 (by simp)
  simp [hostAccess, h]

/-- A write of RES is ignored. -/
theorem hostAccess_resWrite (s : State) (data : Word) :
    hostAccess (.write (s.cfg.base + 4) 32 data) s =
      .next (s.record (.write (s.cfg.base + 4) 32 data) none) := by
  have h : busRegister s.cfg (s.cfg.base + 4) 32 = .ok .res := busRegister_ok.2 (by simp)
  simp [hostAccess, h]

/-- An access of another width or at another offset is refused, in either direction. -/
theorem hostAccess_refused {s : State} {a : BusAccess} {addr bits : Nat} {data : Word}
    (ha : a = .write addr bits data ∨ a = .read addr bits)
    (h : ¬ (bits = 32 ∧ (addr = s.cfg.base ∨ addr = s.cfg.base + 4))) : ∃ r, hostAccess a s = .refused r := by
  obtain ⟨r, hr⟩ := busRegister_error h
  obtain rfl | rfl := ha
  · exact ⟨r, by simp [hostAccess, hr]⟩
  · exact ⟨r, by simp [hostAccess, hr]⟩

/-- Settles O15: the step performs the access that is pending, and the register it reaches, if any, decides. -/
theorem hostAccessesFollowBusMap : Obligations.HostAccessesFollowBusMap := by
  unfold Obligations.HostAccessesFollowBusMap
  intro s rest data
  refine ⟨?_, ?_, ?_, ?_, ?_⟩
  · rintro a hp rfl
    exact (step_of_access hp).trans (hostAccess_cmdWrite _ data)
  · rintro a hp rfl
    exact (step_of_access hp).trans (hostAccess_resRead _)
  · rintro a hp rfl
    exact (step_of_access hp).trans (hostAccess_cmdRead _)
  · rintro a hp rfl
    exact (step_of_access hp).trans (hostAccess_resWrite _ data)
  · intro addr bits hp hbad
    obtain hp | hp := hp
    · rw [step_of_access hp]
      exact hostAccess_refused (data := data) (.inl rfl) hbad
    · rw [step_of_access hp]
      exact hostAccess_refused (data := data) (.inr rfl) hbad

end Sys2Proof.Machine
end

section
/-! The formats of the command words (spec/30_encoding.md R71 to R78): the number each one is, the fields it holds and
the words in it; and with them the two directions of the round trip of decoder and encoder. -/

namespace Sys2Proof

/-! ### A word from its fields: the number (R73) -/

theorem toNat_fieldAt {n : Nat} (v : BitVec n) (lo : Nat) (h : lo + n ≤ 32) :
    (fieldAt v lo).toNat = 2 ^ lo * v.toNat := by
  have hv : v.toNat < 2 ^ 32 := v.isLt.trans_le (Nat.pow_le_pow_right (by decide) (by omega))
  have hshift : 2 ^ lo * v.toNat < 2 ^ 32 := by
    calc 2 ^ lo * v.toNat < 2 ^ lo * 2 ^ n := by gcongr; exact v.isLt
      _ = 2 ^ (lo + n) := (pow_add 2 lo n).symm
      _ ≤ 2 ^ 32 := Nat.pow_le_pow_right (by decide) h
  rw [fieldAt, BitVec.toNat_shiftLeft, BitVec.toNat_setWidth, Nat.mod_eq_of_lt hv, Nat.shiftLeft_eq, Nat.mul_comm,
    Nat.mod_eq_of_lt hshift]

/-- A field placed below every bit that is set adds its value at its place. -/
theorem toNat_or_fieldAt {n : Nat} {x : Word} (v : BitVec n) (lo : Nat) (h : lo + n ≤ 32)
    (hx : 2 ^ (lo + n) ∣ x.toNat) : (x ||| fieldAt v lo).toNat = x.toNat + 2 ^ lo * v.toNat := by
  obtain ⟨m, hm⟩ := hx
  have hv : 2 ^ lo * v.toNat < 2 ^ (lo + n) := by
    rw [pow_add]
    gcongr
    exact v.isLt
  rw [BitVec.toNat_or, toNat_fieldAt v lo h, hm, Nat.two_pow_add_eq_or_of_lt hv]

section
variable (op : BitVec 4) (u v : Index)

@[simp] theorem toNat_formatUnit : (formatUnit op u).toNat = 2 ^ 28 * op.toNat + 2 ^ 24 * u.toNat := by
  have hop := toNat_fieldAt op 28 (by decide)
  rw [formatUnit, toNat_or_fieldAt _ _ (by decide) (by omega), hop]

@[simp] theorem toNat_formatSF (w16 refin refout : Bool) :
    (formatSF op u w16 refin refout).toNat =
      2 ^ 28 * op.toNat + 2 ^ 24 * u.toNat + 4 * refout.toNat + 2 * refin.toNat + w16.toNat := by
  have hunit := toNat_formatUnit op u
  have hout := toNat_or_fieldAt (x := formatUnit op u) (BitVec.ofBool refout) 2 (by decide) (by omega)
  have hin := toNat_or_fieldAt (x := formatUnit op u ||| fieldAt (BitVec.ofBool refout) 2) (BitVec.ofBool refin) 1
    (by decide) (by omega)
  rw [formatSF, toNat_or_fieldAt _ _ (by decide) (by omega), hin, hout, hunit]
  simp only [BitVec.toNat_ofBool]
  omega

@[simp] theorem toNat_formatSI (imm16 : Half) :
    (formatSI op u imm16).toNat = 2 ^ 28 * op.toNat + 2 ^ 24 * u.toNat + imm16.toNat := by
  have hunit := toNat_formatUnit op u
  rw [formatSI, toNat_or_fieldAt _ _ (by decide) (by omega), hunit]
  omega

@[simp] theorem toNat_formatCS :
    (formatCS op u v).toNat = 2 ^ 28 * op.toNat + 2 ^ 24 * u.toNat + 2 ^ 20 * v.toNat := by
  have hunit := toNat_formatUnit op u
  rw [formatCS, toNat_or_fieldAt _ _ (by decide) (by omega), hunit]

@[simp] theorem toNat_formatCD (n : BitVec 2) (b1 b0 : Byte) :
    (formatCD op u n b1 b0).toNat =
      2 ^ 28 * op.toNat + 2 ^ 16 * n.toNat + 2 ^ 24 * u.toNat + 2 ^ 8 * b1.toNat + b0.toNat := by
  have hunit := toNat_formatUnit op u
  have hn := toNat_or_fieldAt (x := formatUnit op u) n 16 (by decide) (by omega)
  have hb1 := toNat_or_fieldAt (x := formatUnit op u ||| fieldAt n 16) b1 8 (by decide) (by omega)
  rw [formatCD, toNat_or_fieldAt _ _ (by decide) (by omega), hb1, hn, hunit]
  omega

@[simp] theorem toNat_formatR (idx : Byte) :
    (formatR op u idx).toNat = 0xC0000000 + 2 ^ 24 * op.toNat + 2 ^ 20 * u.toNat + idx.toNat := by
  have hunit := toNat_formatUnit 0xC#4 op
  have hu := toNat_or_fieldAt (x := formatUnit 0xC#4 op) u 20 (by decide) (by omega)
  rw [formatR, toNat_or_fieldAt _ _ (by decide) (by omega), hu, hunit]
  simp

/-! ### What the fields of a word of each format are -/

theorem fields_formatUnit :
    opField (formatUnit op u) = op ∧ unitField (formatUnit op u) = u ∧ zeroBits (formatUnit op u) 0 24 = true := by
  simp [formatUnit, opField, unitField, zeroBits, BitVec.extractLsb'_or, extract_fieldAt_disjoint]

theorem fields_formatSF (w16 refin refout : Bool) :
    opField (formatSF op u w16 refin refout) = op ∧ unitField (formatSF op u w16 refin refout) = u ∧
      (formatSF op u w16 refin refout).getLsbD 0 = w16 ∧ (formatSF op u w16 refin refout).getLsbD 1 = refin ∧
      (formatSF op u w16 refin refout).getLsbD 2 = refout ∧
      zeroBits (formatSF op u w16 refin refout) 3 21 = true := by
  simp [formatSF, formatUnit, opField, unitField, zeroBits, BitVec.extractLsb'_or, extract_fieldAt_disjoint,
    -BitVec.getLsbD_eq_getElem, getLsbD_fieldAt]

theorem fields_formatSI (imm16 : Half) :
    opField (formatSI op u imm16) = op ∧ unitField (formatSI op u imm16) = u ∧
      immField (formatSI op u imm16) = imm16 ∧ zeroBits (formatSI op u imm16) 16 8 = true := by
  simp [formatSI, formatUnit, opField, unitField, immField, zeroBits, BitVec.extractLsb'_or, extract_fieldAt_disjoint]

theorem fields_formatCS :
    opField (formatCS op u v) = op ∧ unitField (formatCS op u v) = u ∧ secondField (formatCS op u v) = v ∧
      zeroBits (formatCS op u v) 0 20 = true := by
  simp [formatCS, formatUnit, opField, unitField, secondField, zeroBits, BitVec.extractLsb'_or,
    extract_fieldAt_disjoint]

theorem fields_formatCD (n : BitVec 2) (b1 b0 : Byte) :
    opField (formatCD op u n b1 b0) = op ∧ unitField (formatCD op u n b1 b0) = u ∧
      countField (formatCD op u n b1 b0) = n ∧ highByte (formatCD op u n b1 b0) = b1 ∧
      lowByte (formatCD op u n b1 b0) = b0 ∧ zeroBits (formatCD op u n b1 b0) 18 6 = true := by
  simp [formatCD, formatUnit, opField, unitField, countField, highByte, lowByte, zeroBits, BitVec.extractLsb'_or,
    extract_fieldAt_disjoint]

theorem fields_formatR (idx : Byte) :
    opField (formatR op u idx) = 0xC#4 ∧ unitField (formatR op u idx) = op ∧ secondField (formatR op u idx) = u ∧
      lowByte (formatR op u idx) = idx ∧ zeroBits (formatR op u idx) 8 12 = true := by
  simp [formatR, formatUnit, opField, unitField, secondField, lowByte, zeroBits, BitVec.extractLsb'_or,
    extract_fieldAt_disjoint]

end

/-! ### Reserved bits -/

/-- Reserved bits that lie next to each other are reserved bits in one piece. -/
theorem zeroBits_add (w : Word) (lo len len' : Nat) :
    zeroBits w lo (len + len') = (zeroBits w lo len && zeroBits w (lo + len) len') := by
  rw [Bool.eq_iff_iff, Bool.and_eq_true, zeroBits_iff, zeroBits_iff, zeroBits_iff]
  constructor
  · exact fun h => ⟨fun n hn => h n (by omega), fun n hn => by rw [Nat.add_assoc]; exact h (len + n) (by omega)⟩
  · rintro ⟨hlow, hhigh⟩ n hn
    by_cases hl : n < len
    · exact hlow n hl
    · rw [show lo + n = lo + len + (n - len) by omega]
      exact hhigh (n - len) (by omega)

/-! The reserved bits of the decoder's rows, cut into fields. -/

theorem zeroBits_high (w : Word) : zeroBits w 8 8 = (highByte w == 0#8) := rfl

theorem zeroBits_low16 (w : Word) : zeroBits w 0 16 = (lowByte w == 0#8 && highByte w == 0#8) := zeroBits_add w 0 8 8

theorem zeroBits_low20 (w : Word) : zeroBits w 0 20 = (lowByte w == 0#8 && zeroBits w 8 12) := zeroBits_add w 0 8 12

theorem zeroBits_low24 (w : Word) : zeroBits w 0 24 = (zeroBits w 0 20 && secondField w == 0#4) := zeroBits_add w 0 20 4

theorem zeroBits_low28 (w : Word) : zeroBits w 0 28 = (zeroBits w 0 24 && unitField w == 0#4) := zeroBits_add w 0 24 4

/-! ### The words of each format are those whose reserved bits are 0 -/

theorem zeroBits_iff_toNat {w : Word} {lo len : Nat} : zeroBits w lo len = true ↔ w.toNat / 2 ^ lo % 2 ^ len = 0 := by
  simp [zeroBits, ← BitVec.toNat_inj, Nat.shiftRight_eq_div_pow]

section
variable {w : Word} {op u : BitVec 4} (hop : opField w = op)
include hop

theorem formatUnit_of_fields (hu : unitField w = u) (hz : zeroBits w 0 24 = true) : formatUnit op u = w := by
  subst hop hu
  rw [zeroBits_iff_toNat] at hz
  apply BitVec.eq_of_toNat_eq
  simp only [toNat_formatUnit, opField, unitField, BitVec.extractLsb'_toNat, Nat.shiftRight_eq_div_pow]
  omega

theorem formatSF_of_fields (hz : zeroBits w 3 21 = true) :
    formatSF op (unitField w) (w.getLsbD 0) (w.getLsbD 1) (w.getLsbD 2) = w := by
  subst hop
  rw [zeroBits_iff_toNat] at hz
  apply BitVec.eq_of_toNat_eq
  simp only [toNat_formatSF, opField, unitField, BitVec.extractLsb'_toNat,
    Nat.shiftRight_eq_div_pow, BitVec.getLsbD, Nat.toNat_testBit]
  omega

theorem formatSI_of_fields (hz : zeroBits w 16 8 = true) : formatSI op (unitField w) (immField w) = w := by
  subst hop
  rw [zeroBits_iff_toNat] at hz
  apply BitVec.eq_of_toNat_eq
  simp only [toNat_formatSI, opField, unitField, immField, BitVec.extractLsb'_toNat, Nat.shiftRight_eq_div_pow]
  omega

theorem formatCS_of_fields (hz : zeroBits w 0 20 = true) : formatCS op (unitField w) (secondField w) = w := by
  subst hop
  rw [zeroBits_iff_toNat] at hz
  apply BitVec.eq_of_toNat_eq
  simp only [toNat_formatCS, opField, unitField, secondField, BitVec.extractLsb'_toNat, Nat.shiftRight_eq_div_pow]
  omega

theorem formatCD_of_fields {n : BitVec 2} (hn : countField w = n) (hz : zeroBits w 18 6 = true) :
    formatCD op (unitField w) n (highByte w) (lowByte w) = w := by
  subst hop hn
  rw [zeroBits_iff_toNat] at hz
  apply BitVec.eq_of_toNat_eq
  simp only [toNat_formatCD, opField, unitField, countField, highByte, lowByte, BitVec.extractLsb'_toNat,
    Nat.shiftRight_eq_div_pow]
  omega

end

theorem formatR_of_fields {w : Word} {sel : BitVec 4} (hop : opField w = 0xC#4) (hsel : unitField w = sel)
    (hz : zeroBits w 8 12 = true) : formatR sel (secondField w) (lowByte w) = w := by
  subst hsel
  have hop' : w.toNat / 2 ^ 28 % 2 ^ 4 = 0xC := by
    rw [← Nat.shiftRight_eq_div_pow, ← BitVec.extractLsb'_toNat, ← opField, hop]
    rfl
  rw [zeroBits_iff_toNat] at hz
  apply BitVec.eq_of_toNat_eq
  simp only [toNat_formatR, unitField, secondField, lowByte, BitVec.extractLsb'_toNat, Nat.shiftRight_eq_div_pow]
  omega

/-- A READ that has no index reserves the index field too. -/
theorem formatR_of_fields_noIndex {w : Word} {sel : BitVec 4} (hop : opField w = 0xC#4) (hsel : unitField w = sel)
    (hz : zeroBits w 0 20 = true) : formatR sel (secondField w) 0#8 = w := by
  rw [zeroBits_low20, Bool.and_eq_true, beq_iff_eq] at hz
  obtain ⟨hidx, hz⟩ := hz
  rw [← hidx]
  exact formatR_of_fields hop hsel hz

/-- A READ of the error record reserves the second field as well. -/
theorem formatR_of_fields_noUnit {w : Word} {sel : BitVec 4} (hop : opField w = 0xC#4) (hsel : unitField w = sel)
    (hz : zeroBits w 0 24 = true) : formatR sel 0#4 0#8 = w := by
  rw [zeroBits_low24, Bool.and_eq_true, beq_iff_eq] at hz
  obtain ⟨hz, hu⟩ := hz
  rw [← hu]
  exact formatR_of_fields_noIndex hop hsel hz

/-- NOP and CLRERR reserve the unit field as well. -/
theorem formatUnit_of_fields_noUnit {w : Word} {op : BitVec 4} (hop : opField w = op)
    (hz : zeroBits w 0 28 = true) : formatUnit op 0#4 = w := by
  rw [zeroBits_low28, Bool.and_eq_true, beq_iff_eq] at hz
  exact formatUnit_of_fields hop hz.2 hz.1

/-! ### Decode and encode -/

/-- Every command's fields are read back where its format puts them, and the bits it does not use are 0. -/
theorem decode_encode (i : Instr) : decode (encode i) = .ok i := by
  cases i with
  | nop | clrerr => simp [encode, decode, fields_formatUnit, zeroBits_low28]
  | cfg => simp [encode, decode, fields_formatSF, -BitVec.getLsbD_eq_getElem]
  | poly | init | xout => simp [encode, decode, fields_formatSI]
  | build | free | unbind | reset | sum => simp [encode, decode, fields_formatUnit]
  | bind => simp [encode, decode, fields_formatCS]
  | upd0 | upd1 | upd2 => simp [encode, decode, decodeUpd, fields_formatCD, zeroBits_high, zeroBits_low16]
  | rdtab => simp [encode, decode, decodeRead, fields_formatR]
  | rdcrc | rdinfo | rdscfg | rdpoly | rdinit | rdxout | rdchst =>
    simp [encode, decode, decodeRead, fields_formatR, zeroBits_low20]
  | rdstat | rderr => simp [encode, decode, decodeRead, fields_formatR, zeroBits_low20, zeroBits_low24]

/-- An accepted row gives its command, with the row's reserved bits 0: what is left to show is that the command's word
is the word. -/
theorem encode_of_accepted {ok : Bool} {w : Word} {i j : Instr} (h : ifReservedZero ok i = .ok j)
    (henc : ok = true → encode i = w) : encode j = w := by
  obtain ⟨hok, rfl⟩ := ifReservedZero_eq_ok.1 h
  exact henc hok

theorem encode_of_decodeUpd {w : Word} {i : Instr} (hop : opField w = 0xA#4) (h : decodeUpd w = .ok i) :
    encode i = w := by
  unfold decodeUpd at h
  split at h
  next hn =>
    refine encode_of_accepted h fun hz => ?_
    obtain ⟨hz, hbytes⟩ := Bool.and_eq_true_iff.1 hz
    obtain ⟨hlow, hhigh⟩ : lowByte w = 0#8 ∧ highByte w = 0#8 := by simpa [zeroBits_low16] using hbytes
    simpa [encode, hlow, hhigh] using formatCD_of_fields hop hn hz
  next hn =>
    refine encode_of_accepted h fun hz => ?_
    obtain ⟨hz, hbyte⟩ := Bool.and_eq_true_iff.1 hz
    have hhigh : highByte w = 0#8 := by simpa [zeroBits_high] using hbyte
    simpa [encode, hhigh] using formatCD_of_fields hop hn hz
  next hn => exact encode_of_accepted h (formatCD_of_fields hop hn)
  next => cases h

theorem encode_of_decodeRead {w : Word} {i : Instr} (hop : opField w = 0xC#4) (h : decodeRead w = .ok i) :
    encode i = w := by
  unfold decodeRead at h
  split at h
  case h_2 hsel => exact encode_of_accepted h (formatR_of_fields hop hsel)
  case h_4 hsel | h_5 hsel => exact encode_of_accepted h (formatR_of_fields_noUnit hop hsel)
  case h_11 => cases h
  all_goals
    next hsel => exact encode_of_accepted h (formatR_of_fields_noIndex hop hsel)

/-- A legal word is its command's word: the rows of the decoder, by format. -/
theorem encode_of_decode {w : Word} {i : Instr} (h : decode w = .ok i) : encode i = w := by
  unfold decode at h
  split at h
  case h_1 hop | h_14 hop => exact encode_of_accepted h (formatUnit_of_fields_noUnit hop)
  case h_2 hop => exact encode_of_accepted h (formatSF_of_fields hop)
  case h_3 hop | h_4 hop | h_5 hop => exact encode_of_accepted h (formatSI_of_fields hop)
  case h_6 hop | h_7 hop | h_9 hop | h_10 hop | h_12 hop => exact encode_of_accepted h (formatUnit_of_fields hop rfl)
  case h_8 hop => exact encode_of_accepted h (formatCS_of_fields hop)
  case h_11 hop => exact encode_of_decodeUpd hop h
  case h_13 hop => exact encode_of_decodeRead hop h
  case h_15 => cases h

/-- Settles O23: each row of the decoder accepts only the words of its command's format. -/
theorem encodeOfDecode : Obligations.EncodeOfDecode := by
  unfold Obligations.EncodeOfDecode
  exact fun w i => encode_of_decode

/-- Settles O26: the number of each command's format. -/
theorem encodingsAsNumbers : Obligations.EncodingsAsNumbers := by
  unfold Obligations.EncodingsAsNumbers
  intro k c w16 refin refout v b0 b1
  simp [encode]

end Sys2Proof
end

section
/-! The opcode map (spec/30_encoding.md R79 to R84): the words of each row, and the words of none. -/

namespace Sys2Proof

open Sys2Proof.Machine

/-! ### Legal words match a row -/

/-- The word of every command matches the row of its mnemonic: the families of `Laws.EncodesItsRow` together. -/
theorem encodesItsRow (i : Instr) : Laws.EncodesItsRow.Statement i := by
  cases i with
  | nop => exact Laws.EncodesItsRow.nop
  | cfg => exact Laws.EncodesItsRow.cfg ..
  | poly => exact Laws.EncodesItsRow.poly ..
  | init => exact Laws.EncodesItsRow.init ..
  | xout => exact Laws.EncodesItsRow.xout ..
  | build => exact Laws.EncodesItsRow.build ..
  | free => exact Laws.EncodesItsRow.free ..
  | bind => exact Laws.EncodesItsRow.bind ..
  | unbind => exact Laws.EncodesItsRow.unbind ..
  | reset => exact Laws.EncodesItsRow.reset ..
  | upd0 => exact Laws.EncodesItsRow.upd0 ..
  | upd1 => exact Laws.EncodesItsRow.upd1 ..
  | upd2 => exact Laws.EncodesItsRow.upd2 ..
  | sum => exact Laws.EncodesItsRow.sum ..
  | rdcrc => exact Laws.EncodesItsRow.rdcrc ..
  | rdtab => exact Laws.EncodesItsRow.rdtab ..
  | rdinfo => exact Laws.EncodesItsRow.rdinfo ..
  | rdstat => exact Laws.EncodesItsRow.rdstat
  | rderr => exact Laws.EncodesItsRow.rderr
  | rdscfg => exact Laws.EncodesItsRow.rdscfg ..
  | rdpoly => exact Laws.EncodesItsRow.rdpoly ..
  | rdinit => exact Laws.EncodesItsRow.rdinit ..
  | rdxout => exact Laws.EncodesItsRow.rdxout ..
  | rdchst => exact Laws.EncodesItsRow.rdchst ..
  | clrerr => exact Laws.EncodesItsRow.clrerr

theorem wellFormed_instr (i : Instr) : i.wellFormed = true := by
  obtain ⟨r, hr, -, hmatch⟩ := encodesItsRow i
  exact List.any_eq_true.2 ⟨r, hr, hmatch⟩

/-- Settles O22: the word matches the command's row, and its fields read back. -/
theorem decodeOfEncode : Obligations.DecodeOfEncode := by
  unfold Obligations.DecodeOfEncode
  exact fun i => ⟨wellFormed_instr i, decode_encode i⟩

/-- A legal word matches the row of its command. -/
theorem row_of_decode {w : Word} {i : Instr} (h : decode w = .ok i) :
    ∃ r ∈ opcodeRows, r.mnemonic = mnemonicOf i ∧ w &&& r.mask = r.matchBits := by
  obtain ⟨r, hr, hm, hmatch⟩ := encodesItsRow i
  rw [encode_of_decode h] at hmatch
  exact ⟨r, hr, hm, by simpa [OpcodeRow.matchesWord] using hmatch⟩

/-- A mnemonic names one row. -/
theorem row_eq_of_mnemonic {r r' : OpcodeRow} (hr : r ∈ opcodeRows) (hr' : r' ∈ opcodeRows)
    (h : r.mnemonic = r'.mnemonic) : r = r' := by
  have hnodup : (opcodeRows.map OpcodeRow.mnemonic).Nodup := by decide +kernel
  exact List.inj_on_of_nodup_map hnodup hr hr' h

/-! ### The words of a row decode to its command -/

/-- A row's words are exactly those that decode to its command, once the words that match the row do. -/
theorem rowDecodes_of_match {v m : Word} {command : Word → Instr} (name : String)
    (hrow : ⟨name, v, m⟩ ∈ opcodeRows) (hname : ∀ w, mnemonicOf (command w) = name)
    (hdecode : ∀ w, w &&& m = v → decode w = .ok (command w)) : RowDecodes v m command := by
  refine fun w => ⟨hdecode w, fun h => ?_⟩
  obtain ⟨r, hr, hm, hmatch⟩ := row_of_decode h
  rw [hname w] at hm
  obtain rfl := row_eq_of_mnemonic hr hrow hm
  exact hmatch

/-- The row of one opcode, whose reserved bits are the `len` bits from `lo`. -/
theorem rowDecodes_of_opcode {v m : Word} {command : Word → Instr} (name : String) (lo len : Nat)
    (hrow : ⟨name, v, m⟩ ∈ opcodeRows) (hname : ∀ w, mnemonicOf (command w) = name)
    (hmask : opField m = 0xF#4 ∧ m.extractLsb' lo len = BitVec.allOnes len ∧ v.extractLsb' lo len = 0#len)
    (hdecode : ∀ w, opField w = opField v → decode w = ifReservedZero (zeroBits w lo len) (command w)) :
    RowDecodes v m command := by
  obtain ⟨hop, hones, hzeros⟩ := hmask
  refine rowDecodes_of_match name hrow hname fun w h => ?_
  rw [hdecode w (opField_of_match h hop), ifReservedZero_eq_ok]
  exact ⟨zeroBits_of_match h hones hzeros, rfl⟩

theorem decode_eq_decodeUpd {w : Word} (hop : opField w = 0xA#4) : decode w = decodeUpd w := by
  simp [decode, hop]

theorem decode_eq_decodeRead {w : Word} (hop : opField w = 0xC#4) : decode w = decodeRead w := by
  simp [decode, hop]

/-- A row of the READ group, whose mask covers the selector too (R77). -/
theorem rowDecodes_of_selector {v m : Word} {command : Word → Instr} (name : String) (lo len : Nat)
    (hrow : ⟨name, v, m⟩ ∈ opcodeRows) (hname : ∀ w, mnemonicOf (command w) = name)
    (hmask : (opField v = 0xC#4 ∧ opField m = 0xF#4 ∧ unitField m = 0xF#4) ∧
      m.extractLsb' lo len = BitVec.allOnes len ∧ v.extractLsb' lo len = 0#len)
    (hdecode : ∀ w, unitField w = unitField v → decodeRead w = ifReservedZero (zeroBits w lo len) (command w)) :
    RowDecodes v m command := by
  obtain ⟨⟨hread, hop, hsel⟩, hones, hzeros⟩ := hmask
  refine rowDecodes_of_match name hrow hname fun w h => ?_
  rw [decode_eq_decodeRead ((opField_of_match h hop).trans hread), hdecode w (unitField_of_match h hsel),
    ifReservedZero_eq_ok]
  exact ⟨zeroBits_of_match h hones hzeros, rfl⟩

/-- A row of UPD, whose mask covers the byte count too (R76). -/
theorem rowDecodes_of_count {v m : Word} {command : Word → Instr} (name : String)
    (hrow : ⟨name, v, m⟩ ∈ opcodeRows) (hname : ∀ w, mnemonicOf (command w) = name)
    (hmask : opField v = 0xA#4 ∧ opField m = 0xF#4 ∧ countField m = 3#2)
    (hdecode : ∀ w, w &&& m = v → countField w = countField v → decodeUpd w = .ok (command w)) :
    RowDecodes v m command := by
  obtain ⟨hupd, hop, hcount⟩ := hmask
  refine rowDecodes_of_match name hrow hname fun w h => ?_
  rw [decode_eq_decodeUpd ((opField_of_match h hop).trans hupd)]
  exact hdecode w h (extractLsb'_of_match h 16 2 hcount)

theorem rowDecodes_nop : RowDecodes 0x00000000 0xFFFFFFFF (fun _ => .nop) :=
  rowDecodes_of_opcode "NOP" 0 28 (by decide) (fun _ => rfl) (by decide)
    (fun w hop => by rw [decode, hop]; rfl)

theorem rowDecodes_cfg : RowDecodes 0x10000000 0xF0FFFFF8
    (fun w => .cfg (unitField w) (w.getLsbD 0) (w.getLsbD 1) (w.getLsbD 2)) :=
  rowDecodes_of_opcode "CFG" 3 21 (by decide) (fun _ => rfl) (by decide)
    (fun w hop => by rw [decode, hop]; rfl)

theorem rowDecodes_poly : RowDecodes 0x20000000 0xF0FF0000 (fun w => .poly (unitField w) (immField w)) :=
  rowDecodes_of_opcode "POLY" 16 8 (by decide) (fun _ => rfl) (by decide)
    (fun w hop => by rw [decode, hop]; rfl)

theorem rowDecodes_init : RowDecodes 0x30000000 0xF0FF0000 (fun w => .init (unitField w) (immField w)) :=
  rowDecodes_of_opcode "INIT" 16 8 (by decide) (fun _ => rfl) (by decide)
    (fun w hop => by rw [decode, hop]; rfl)

theorem rowDecodes_xout : RowDecodes 0x40000000 0xF0FF0000 (fun w => .xout (unitField w) (immField w)) :=
  rowDecodes_of_opcode "XOUT" 16 8 (by decide) (fun _ => rfl) (by decide)
    (fun w hop => by rw [decode, hop]; rfl)

theorem rowDecodes_build : RowDecodes 0x50000000 0xF0FFFFFF (fun w => .build (unitField w)) :=
  rowDecodes_of_opcode "BUILD" 0 24 (by decide) (fun _ => rfl) (by decide)
    (fun w hop => by rw [decode, hop]; rfl)

theorem rowDecodes_free : RowDecodes 0x60000000 0xF0FFFFFF (fun w => .free (unitField w)) :=
  rowDecodes_of_opcode "FREE" 0 24 (by decide) (fun _ => rfl) (by decide)
    (fun w hop => by rw [decode, hop]; rfl)

theorem rowDecodes_bind : RowDecodes 0x70000000 0xF00FFFFF (fun w => .bind (unitField w) (secondField w)) :=
  rowDecodes_of_opcode "BIND" 0 20 (by decide) (fun _ => rfl) (by decide)
    (fun w hop => by rw [decode, hop]; rfl)

theorem rowDecodes_unbind : RowDecodes 0x80000000 0xF0FFFFFF (fun w => .unbind (unitField w)) :=
  rowDecodes_of_opcode "UNBIND" 0 24 (by decide) (fun _ => rfl) (by decide)
    (fun w hop => by rw [decode, hop]; rfl)

theorem rowDecodes_reset : RowDecodes 0x90000000 0xF0FFFFFF (fun w => .reset (unitField w)) :=
  rowDecodes_of_opcode "RESET" 0 24 (by decide) (fun _ => rfl) (by decide)
    (fun w hop => by rw [decode, hop]; rfl)

theorem rowDecodes_upd0 : RowDecodes 0xA0000000 0xF0FFFFFF (fun w => .upd0 (unitField w)) :=
  rowDecodes_of_count "UPD0" (by decide) (fun _ => rfl) (by decide) fun w h hcount => by
    rw [decodeUpd, hcount]
    exact ifReservedZero_eq_ok.2 ⟨Bool.and_eq_true_iff.2
      ⟨zeroBits_of_match h (by decide) (by decide), zeroBits_of_match h (by decide) (by decide)⟩, rfl⟩

theorem rowDecodes_upd1 : RowDecodes 0xA0010000 0xF0FFFF00 (fun w => .upd1 (unitField w) (lowByte w)) :=
  rowDecodes_of_count "UPD1" (by decide) (fun _ => rfl) (by decide) fun w h hcount => by
    rw [decodeUpd, hcount]
    exact ifReservedZero_eq_ok.2 ⟨Bool.and_eq_true_iff.2
      ⟨zeroBits_of_match h (by decide) (by decide), zeroBits_of_match h (by decide) (by decide)⟩, rfl⟩

theorem rowDecodes_upd2 : RowDecodes 0xA0020000 0xF0FF0000 (fun w => .upd2 (unitField w) (lowByte w) (highByte w)) :=
  rowDecodes_of_count "UPD2" (by decide) (fun _ => rfl) (by decide) fun w h hcount => by
    rw [decodeUpd, hcount]
    exact ifReservedZero_eq_ok.2 ⟨zeroBits_of_match h (by decide) (by decide), rfl⟩

theorem rowDecodes_sum : RowDecodes 0xB0000000 0xF0FFFFFF (fun w => .sum (unitField w)) :=
  rowDecodes_of_opcode "SUM" 0 24 (by decide) (fun _ => rfl) (by decide)
    (fun w hop => by rw [decode, hop]; rfl)

theorem rowDecodes_clrerr : RowDecodes 0xD0000000 0xFFFFFFFF (fun _ => .clrerr) :=
  rowDecodes_of_opcode "CLRERR" 0 28 (by decide) (fun _ => rfl) (by decide)
    (fun w hop => by rw [decode, hop]; rfl)

theorem rowDecodes_rdcrc : RowDecodes 0xC0000000 0xFF0FFFFF (fun w => .rdcrc (secondField w)) :=
  rowDecodes_of_selector "RDCRC" 0 20 (by decide) (fun _ => rfl) (by decide)
    (fun w hsel => by rw [decodeRead, hsel]; rfl)

theorem rowDecodes_rdtab : RowDecodes 0xC1000000 0xFF0FFF00 (fun w => .rdtab (secondField w) (lowByte w)) :=
  rowDecodes_of_selector "RDTAB" 8 12 (by decide) (fun _ => rfl) (by decide)
    (fun w hsel => by rw [decodeRead, hsel]; rfl)

theorem rowDecodes_rdinfo : RowDecodes 0xC2000000 0xFF0FFFFF (fun w => .rdinfo (secondField w)) :=
  rowDecodes_of_selector "RDINFO" 0 20 (by decide) (fun _ => rfl) (by decide)
    (fun w hsel => by rw [decodeRead, hsel]; rfl)

theorem rowDecodes_rdstat : RowDecodes 0xC3000000 0xFFFFFFFF (fun _ => .rdstat) :=
  rowDecodes_of_selector "RDSTAT" 0 24 (by decide) (fun _ => rfl) (by decide)
    (fun w hsel => by rw [decodeRead, hsel]; rfl)

theorem rowDecodes_rderr : RowDecodes 0xC4000000 0xFFFFFFFF (fun _ => .rderr) :=
  rowDecodes_of_selector "RDERR" 0 24 (by decide) (fun _ => rfl) (by decide)
    (fun w hsel => by rw [decodeRead, hsel]; rfl)

theorem rowDecodes_rdscfg : RowDecodes 0xC5000000 0xFF0FFFFF (fun w => .rdscfg (secondField w)) :=
  rowDecodes_of_selector "RDSCFG" 0 20 (by decide) (fun _ => rfl) (by decide)
    (fun w hsel => by rw [decodeRead, hsel]; rfl)

theorem rowDecodes_rdpoly : RowDecodes 0xC6000000 0xFF0FFFFF (fun w => .rdpoly (secondField w)) :=
  rowDecodes_of_selector "RDPOLY" 0 20 (by decide) (fun _ => rfl) (by decide)
    (fun w hsel => by rw [decodeRead, hsel]; rfl)

theorem rowDecodes_rdinit : RowDecodes 0xC7000000 0xFF0FFFFF (fun w => .rdinit (secondField w)) :=
  rowDecodes_of_selector "RDINIT" 0 20 (by decide) (fun _ => rfl) (by decide)
    (fun w hsel => by rw [decodeRead, hsel]; rfl)

theorem rowDecodes_rdxout : RowDecodes 0xC8000000 0xFF0FFFFF (fun w => .rdxout (secondField w)) :=
  rowDecodes_of_selector "RDXOUT" 0 20 (by decide) (fun _ => rfl) (by decide)
    (fun w hsel => by rw [decodeRead, hsel]; rfl)

theorem rowDecodes_rdchst : RowDecodes 0xC9000000 0xFF0FFFFF (fun w => .rdchst (secondField w)) :=
  rowDecodes_of_selector "RDCHST" 0 20 (by decide) (fun _ => rfl) (by decide)
    (fun w hsel => by rw [decodeRead, hsel]; rfl)

/-! ### The map as a whole -/

/-- The words that match a row decode to commands of the row's mnemonic. -/
def RowAccepted (r : OpcodeRow) : Prop :=
  ∀ w : Word, w &&& r.mask = r.matchBits → ∃ i, decode w = .ok i ∧ mnemonicOf i = r.mnemonic

theorem rowAccepted_of_rowDecodes {name : String} {v m : Word} {command : Word → Instr} (h : RowDecodes v m command)
    (hname : ∀ w, mnemonicOf (command w) = name) : RowAccepted ⟨name, v, m⟩ :=
  fun w hw => ⟨command w, (h w).1 hw, hname w⟩

theorem rowAccepted_of_mem : ∀ r ∈ opcodeRows, RowAccepted r := by
  simp only [opcodeRows, opcodeRowsLow, opcodeRowsHigh, opcodeRowsRead, List.cons_append, List.nil_append,
    List.forall_mem_cons]
  exact ⟨rowAccepted_of_rowDecodes rowDecodes_nop fun _ => rfl,
    rowAccepted_of_rowDecodes rowDecodes_cfg fun _ => rfl,
    rowAccepted_of_rowDecodes rowDecodes_poly fun _ => rfl,
    rowAccepted_of_rowDecodes rowDecodes_init fun _ => rfl,
    rowAccepted_of_rowDecodes rowDecodes_xout fun _ => rfl,
    rowAccepted_of_rowDecodes rowDecodes_build fun _ => rfl,
    rowAccepted_of_rowDecodes rowDecodes_free fun _ => rfl,
    rowAccepted_of_rowDecodes rowDecodes_bind fun _ => rfl,
    rowAccepted_of_rowDecodes rowDecodes_unbind fun _ => rfl,
    rowAccepted_of_rowDecodes rowDecodes_reset fun _ => rfl,
    rowAccepted_of_rowDecodes rowDecodes_upd0 fun _ => rfl,
    rowAccepted_of_rowDecodes rowDecodes_upd1 fun _ => rfl,
    rowAccepted_of_rowDecodes rowDecodes_upd2 fun _ => rfl,
    rowAccepted_of_rowDecodes rowDecodes_sum fun _ => rfl,
    rowAccepted_of_rowDecodes rowDecodes_clrerr fun _ => rfl,
    rowAccepted_of_rowDecodes rowDecodes_rdcrc fun _ => rfl,
    rowAccepted_of_rowDecodes rowDecodes_rdtab fun _ => rfl,
    rowAccepted_of_rowDecodes rowDecodes_rdinfo fun _ => rfl,
    rowAccepted_of_rowDecodes rowDecodes_rdstat fun _ => rfl,
    rowAccepted_of_rowDecodes rowDecodes_rderr fun _ => rfl,
    rowAccepted_of_rowDecodes rowDecodes_rdscfg fun _ => rfl,
    rowAccepted_of_rowDecodes rowDecodes_rdpoly fun _ => rfl,
    rowAccepted_of_rowDecodes rowDecodes_rdinit fun _ => rfl,
    rowAccepted_of_rowDecodes rowDecodes_rdxout fun _ => rfl,
    rowAccepted_of_rowDecodes rowDecodes_rdchst fun _ => rfl,
    List.forall_mem_nil _⟩

/-- No word matches two rows: it decodes to one command, whose mnemonic names one row. -/
theorem row_eq_of_match {r r' : OpcodeRow} (hr : r ∈ opcodeRows) (hr' : r' ∈ opcodeRows) {w : Word}
    (h : w &&& r.mask = r.matchBits) (h' : w &&& r'.mask = r'.matchBits) : r = r' := by
  obtain ⟨i, hi, hm⟩ := rowAccepted_of_mem r hr w h
  obtain ⟨i', hi', hm'⟩ := rowAccepted_of_mem r' hr' w h'
  obtain rfl : i = i' := Except.ok.inj (hi.symm.trans hi')
  exact row_eq_of_mnemonic hr hr' (hm.symm.trans hm')

/-- Settles O24: a legal word is its command's word, which matches its row; the words of a row decode to its command. -/
theorem decodeFollowsOpcodeMap : Obligations.DecodeFollowsOpcodeMap := by
  unfold Obligations.DecodeFollowsOpcodeMap
  exact ⟨fun _ _ => row_of_decode, fun w r hr => rowAccepted_of_mem r hr w,
    fun _ _ hr _ hr' => row_eq_of_match hr hr'⟩

/-! ### Reserved encodings -/

/-- An illegal word matches no row, since the words of a row decode. -/
theorem wellFormedWord_eq_false_of_error {w : Word} {e : Illegal} (h : decode w = .error e) :
    wellFormedWord w = false := by
  rw [wellFormedWord, List.any_eq_false]
  intro r hr hmatch
  obtain ⟨i, hi, -⟩ := rowAccepted_of_mem r hr w (by simpa [OpcodeRow.matchesWord] using hmatch)
  rw [h] at hi
  cases hi

theorem decode_reservedOpcode {w : Word} (h : 14 ≤ (opField w).toNat) : decode w = .error .reservedOpcode := by
  obtain hop | hop : opField w = 0xE#4 ∨ opField w = 0xF#4 := by bv_omega
  · simp [decode, hop]
  · simp [decode, hop]

theorem decode_reservedCount {w : Word} (hop : opField w = 0xA#4) (hn : countField w = 3#2) :
    decode w = .error .reservedCount := by
  simp [decode_eq_decodeUpd hop, decodeUpd, hn]

theorem decodeRead_reservedSelector {w : Word} (h : 10 ≤ (unitField w).toNat) :
    decodeRead w = .error .reservedSelector := by
  unfold decodeRead
  split
  case h_11 => rfl
  all_goals
    next hsel => exact absurd h (by rw [hsel]; decide)

theorem decode_reservedSelector {w : Word} (hop : opField w = 0xC#4) (h : 10 ≤ (unitField w).toNat) :
    decode w = .error .reservedSelector := by
  rw [decode_eq_decodeRead hop]
  exact decodeRead_reservedSelector h

theorem illegal_of_error {w : Word} {e : Illegal} (h : decode w = .error e) :
    wellFormedWord w = false ∧ ∃ r, decode w = .error r :=
  ⟨wellFormedWord_eq_false_of_error h, e, h⟩

/-- Settles O25: no row of the decoder has these fields, and what the decoder rejects matches no row of the map. -/
theorem reservedEncodingsAreIllegal : Obligations.ReservedEncodingsAreIllegal := by
  unfold Obligations.ReservedEncodingsAreIllegal
  exact fun w => ⟨fun hop => illegal_of_error (decode_reservedOpcode hop),
    fun hop hn => illegal_of_error (decode_reservedCount hop hn),
    fun hop hsel => illegal_of_error (decode_reservedSelector hop hsel)⟩

/-! ### Execution of a command word -/

/-- Settles O21: eight words of the round trip, each evaluated. -/
theorem writtenOutWordsDecode : Obligations.WrittenOutWordsDecode := by
  unfold Obligations.WrittenOutWordsDecode
  decide

/-- Settles O16: the step is the host's write of the word, which executes the command the decoder answers. -/
theorem stepRunsDecodedCommand : Obligations.StepRunsDecodedCommand := by
  unfold Obligations.StepRunsDecodedCommand
  intro s rest w hp before
  have hstep : step s = execute w before := (step_of_access hp).trans (hostAccess_cmdWrite { s with pending := rest } w)
  refine ⟨fun i hi => hstep.trans (execute_of_ok hi before), fun r hr => ?_⟩
  exact ⟨_, hstep.trans (execute_of_error hr before), errorRecorded_recordError .illegal w before,
    fun _ => rfl, fun _ => rfl, rfl, rfl, rfl, rfl, rfl⟩

end Sys2Proof
end

section
/-! The assembler (spec/30_encoding.md R85, R86): the word of every line of one command, and the expansions of FEED,
DEFTAB and SUMRD. -/

namespace Sys2Proof.Machine

/-! ### The ranges of operands (R85) -/

@[simp] theorem indexOk_iff (n : Nat) : indexOk n = true ↔ n < 16 := by simp [indexOk]

@[simp] theorem byteOk_iff (n : Nat) : byteOk n = true ↔ n < 256 := by simp [byteOk]

@[simp] theorem immOk_iff (n : Nat) : immOk n = true ↔ n < 65536 := by simp [immOk]

@[simp] theorem widthOk_iff (n : Nat) : widthOk n = true ↔ n = 8 ∨ n = 16 := by simp [widthOk]

@[simp] theorem bitOk_iff (n : Nat) : bitOk n = true ↔ n < 2 := by
  simp [bitOk]
  omega

/-! ### Lines of one command (R85) -/

/-- A line whose one operand is an index, placed in its command's word at the weight `place`. -/
theorem lineEmits_of_index {s : State} {l : AsmLine} {a word place : Nat} (command : Index → Instr)
    (hread : l.readsRes = false) (hcommand : l.commands = [command (BitVec.ofNat 4 a)])
    (hok : l.wellFormed = indexOk a) (hword : ∀ u, (encode (command u)).toNat = word + place * u.toNat) :
    LineEmits s l (a < 16) (word + place * a) :=
  lineEmits_of_command hread hcommand (by rw [hok, indexOk_iff]) fun ha => by
    rw [hword, BitVec.toNat_ofNat, Nat.mod_eq_of_lt ha]

/-- A line of a slot and an immediate. -/
theorem lineEmits_of_immediate {s : State} {l : AsmLine} {a b word : Nat} (command : Index → Half → Instr)
    (hread : l.readsRes = false) (hcommand : l.commands = [command (BitVec.ofNat 4 a) (BitVec.ofNat 16 b)])
    (hok : l.wellFormed = (indexOk a && immOk b))
    (hword : ∀ u v, (encode (command u v)).toNat = word + 2 ^ 24 * u.toNat + v.toNat) :
    LineEmits s l (a < 16 ∧ b < 65536) (word + 2 ^ 24 * a + b) :=
  lineEmits_of_command hread hcommand (by simp [hok]) fun ⟨ha, hb⟩ => by
    rw [hword, BitVec.toNat_ofNat, BitVec.toNat_ofNat, Nat.mod_eq_of_lt ha, Nat.mod_eq_of_lt hb]

/-- CFG's width 16 and its flags are single bits. -/
theorem lineEmits_cfg (s : State) (a b d e : Nat) :
    LineEmits s (.cfg a b d e) (a < 16 ∧ (b = 8 ∨ b = 16) ∧ d < 2 ∧ e < 2)
      (0x10000000 + 2 ^ 24 * a + 4 * e + 2 * d + (if b = 16 then 1 else 0)) := by
  have hbit {n : Nat} (h : n < 2) : (n == 1).toNat = n := by
    interval_cases n <;> rfl
  have hwidth : (b == 16).toNat = if b = 16 then 1 else 0 := by
    by_cases h : b = 16
    · simp [h]
    · simp [h]
  refine lineEmits_of_command rfl rfl (by simp [AsmLine.wellFormed, and_assoc]) ?_
  rintro ⟨ha, -, hd, he⟩
  simp [encode, Nat.mod_eq_of_lt ha, hbit hd, hbit he, hwidth]

/-- Settles O53: line by line, the ranges that are checked and the number of the command's word. -/
theorem assemblerEmitsEncodedWords : Obligations.AssemblerEmitsEncodedWords := by
  unfold Obligations.AssemblerEmitsEncodedWords
  intro s a b d e
  refine ⟨?nop, lineEmits_cfg s a b d e, ?poly, ?init, ?xout, ?build, ?free, ?bind, ?unbind, ?reset, ?sum, ?upd,
    ?updOne, ?updTwo, ?rdcrc, ?rdinfo, ?rdchst, ?rdtab, ?rdscfg, ?rdpoly, ?rdinit, ?rdxout, ?rdstat, ?rderr, ?clrerr, ?hrd⟩
  case nop | rdstat | rderr | clrerr => exact lineEmits_of_command rfl rfl (by simp [AsmLine.wellFormed]) fun _ => rfl
  case poly | init | xout => exact lineEmits_of_immediate _ rfl rfl rfl (by simp [encode])
  case build | free | unbind | reset | sum | upd => exact lineEmits_of_index _ rfl rfl rfl (by simp [encode])
  case rdcrc | rdinfo | rdchst | rdscfg | rdpoly | rdinit | rdxout =>
    exact lineEmits_of_index _ rfl rfl rfl (by simp [encode])
  case bind | updOne | rdtab =>
    refine lineEmits_of_command rfl rfl (by simp [AsmLine.wellFormed]) ?_
    rintro ⟨ha, hb⟩
    simp [encode, Nat.mod_eq_of_lt ha, Nat.mod_eq_of_lt hb]
  case updTwo =>
    refine lineEmits_of_command rfl rfl (by simp [AsmLine.wellFormed, and_assoc]) ?_
    rintro ⟨ha, hb, hd⟩
    simp [encode, Nat.mod_eq_of_lt ha, Nat.mod_eq_of_lt hb, Nat.mod_eq_of_lt hd]
  case hrd => rfl

/-! ### FEED, DEFTAB and SUMRD (R86) -/

/-- The host actions of a line, once it is well formed. -/
def AsmLine.actions (s : State) (l : AsmLine) : List BusAccess :=
  l.commands.map (fun i => s.cmdWrite (encode i)) ++ (if l.readsRes then [s.resRead] else [])

theorem assemble_eq (s : State) (l : AsmLine) :
    l.assemble s = if l.wellFormed then some (l.actions s) else none := rfl

/-- Lines assemble to their actions in order, if every one is well formed. -/
theorem assembleLines_eq (s : State) (ls : List AsmLine) :
    assembleLines s ls = if ls.all AsmLine.wellFormed then some (ls.flatMap (AsmLine.actions s)) else none := by
  induction ls with
  | nil => rfl
  | cons l rest ih =>
    rw [assembleLines, assemble_eq, ih]
    cases hl : l.wellFormed
    · simp [hl]
    · cases hr : rest.all AsmLine.wellFormed
      · simp [hl, hr]
      · simp [hl, hr]

/-- A line that checks what the lines of its expansion check, and has their actions, assembles to what they do. -/
theorem assemble_eq_assembleLines {s : State} {l : AsmLine} {ls : List AsmLine}
    (hok : l.wellFormed = ls.all AsmLine.wellFormed) (hactions : l.actions s = ls.flatMap (AsmLine.actions s)) :
    l.assemble s = assembleLines s ls := by
  rw [assemble_eq, assembleLines_eq, hok, hactions]

/-- FEED checks what its UPD lines check: the channel, and every byte. -/
theorem feed_wellFormed (c : Nat) : ∀ d : List Nat,
    (AsmLine.feed c d).wellFormed = (feedLines c d).all AsmLine.wellFormed
  | [] => by simp [AsmLine.wellFormed]
  | [b0] => by simp [AsmLine.wellFormed]
  | [b0, b1] => by simp [AsmLine.wellFormed, Bool.and_assoc]
  | b0 :: b1 :: b2 :: rest => by
    rw [feedLines_cons_cons, List.all_cons, ← feed_wellFormed c (b2 :: rest)]
    cases hc : indexOk c
    · simp [AsmLine.wellFormed, hc]
    · simp [AsmLine.wellFormed, hc, Bool.and_assoc]

/-- FEED has the actions of its UPD lines: the first command of both carries the first two bytes. -/
theorem feed_actions (s : State) (c : Nat) : ∀ d : List Nat,
    (AsmLine.feed c d).actions s = (feedLines c d).flatMap (AsmLine.actions s)
  | [] => by simp [AsmLine.actions, AsmLine.commands, feed, AsmLine.readsRes]
  | [b0] => by simp [AsmLine.actions, AsmLine.commands, feed, feedPairs, AsmLine.readsRes]
  | [b0, b1] => by simp [AsmLine.actions, AsmLine.commands, feed, feedPairs, AsmLine.readsRes]
  | b0 :: b1 :: b2 :: rest => by
    have ih := feed_actions s c (b2 :: rest)
    rw [feedLines_cons_cons, List.flatMap_cons, ← ih]
    rfl

theorem deftab_wellFormed (k w poly init ri ro xout : Nat) :
    (AsmLine.deftab k w poly init ri ro xout).wellFormed =
      [AsmLine.cfg k w ri ro, .poly k poly, .init k init, .xout k xout, .build k].all AsmLine.wellFormed := by
  rw [Bool.eq_iff_iff]
  simp only [AsmLine.wellFormed, List.all_cons, List.all_nil, Bool.and_eq_true, and_true]
  tauto

/-- Settles O58: each line has the checks and the actions of its expansion. -/
theorem pseudoLinesEmitTheirExpansion : Obligations.PseudoLinesEmitTheirExpansion := by
  unfold Obligations.PseudoLinesEmitTheirExpansion
  intro s c k w poly init ri ro xout d
  refine ⟨?feed, ?deftab, ?sumrd⟩
  case feed => exact assemble_eq_assembleLines (feed_wellFormed c d) (feed_actions s c d)
  case deftab => exact assemble_eq_assembleLines (deftab_wellFormed k w poly init ri ro xout) rfl
  case sumrd => exact assemble_eq_assembleLines (Bool.and_true _).symm rfl

/-! ### The commands of FEED (R86 item 1) -/

theorem feedPairs_carries (c : Index) : ∀ d : List Byte,
    ∃ xs : List Chunk, feedPairs c d = xs.map (Chunk.instr c) ∧ xs.flatMap Chunk.bytes = d
  | [] => ⟨[], rfl, rfl⟩
  | [b0] => ⟨[.one b0], rfl, rfl⟩
  | b0 :: b1 :: rest => by
    obtain ⟨xs, hcommands, hbytes⟩ := feedPairs_carries c rest
    exact ⟨.two b0 b1 :: xs, by rw [feedPairs, hcommands]; rfl, by simp [Chunk.bytes, hbytes]⟩

theorem length_feedPairs (c : Index) : ∀ d : List Byte, (feedPairs c d).length = (d.length + 1) / 2
  | [] => rfl
  | [_] => by simp [feedPairs]
  | b0 :: b1 :: rest => by
    simp only [feedPairs, List.length_cons, length_feedPairs c rest]
    omega

/-- Settles O48: two bytes a command, by recursion on FEED's pairs. -/
theorem feedCarriesItsBytes : Obligations.FeedCarriesItsBytes := by
  unfold Obligations.FeedCarriesItsBytes
  intro c d
  cases d with
  | nil => exact ⟨⟨[.none], rfl, rfl⟩, rfl⟩
  | cons b rest => exact ⟨feedPairs_carries c (b :: rest), by simpa [feed] using length_feedPairs c (b :: rest)⟩

end Sys2Proof.Machine
end

section
/-! The commands of DEFTAB (spec/30_encoding.md R86 item 2) on an empty slot: what CFG, POLY, INIT, XOUT and BUILD make of
it (spec/40_table_generator.md R105 to R109, R111). -/

namespace Sys2Proof.Machine

section
variable {s : State} {k : Index} {v : Slot} (hk : k.toNat < s.cfg.numTables) (hv : v.valid = false)
include hk

/-- A command on a slot of the block that fails no state check writes the slot. -/
theorem exec_slotWrite {i : Instr} {v' : Slot} (hc : channelOperand i = none) (hs : slotOperand i = some k)
    (he : stateError i (s.setSlot k v) = none) (hw : writeOf i (s.setSlot k v) = .slot k v') :
    exec i (s.setSlot k v) = .next (s.setSlot k v') := by
  have hnone : raisedError i (s.setSlot k v) = none :=
    raisedError_eq_none.2 ⟨by rw [hc]; rfl, by rw [hs]; exact decide_eq_false (Nat.not_le.2 hk), he⟩
  rw [exec_eq, commandOutcome_of_none hnone, hw, State.write, setSlot_setSlot]

include hv

theorem exec_cfg_of_empty (w16 refin refout : Bool) :
    exec (.cfg k w16 refin refout) (s.setSlot k v) =
      .next (s.setSlot k { v with scfg := { w16 := w16, refin := refin, refout := refout } }) :=
  exec_slotWrite hk rfl rfl (by simp [stateError, hv]) (by simp [writeOf])

theorem exec_poly_of_empty (p : Half) :
    exec (.poly k p) (s.setSlot k v) = .next (s.setSlot k { v with poly := p }) :=
  exec_slotWrite hk rfl rfl (by simp [stateError, hv]) (by simp [writeOf])

theorem exec_init_of_empty (i : Half) :
    exec (.init k i) (s.setSlot k v) = .next (s.setSlot k { v with init := i }) :=
  exec_slotWrite hk rfl rfl (by simp [stateError, hv]) (by simp [writeOf])

theorem exec_xout_of_empty (x : Half) :
    exec (.xout k x) (s.setSlot k v) = .next (s.setSlot k { v with xout := x }) :=
  exec_slotWrite hk rfl rfl (by simp [stateError, hv]) (by simp [writeOf])

theorem exec_build_of_inRange (hr : v.inRange = true) :
    exec (.build k) (s.setSlot k v) = .next (s.setSlot k { v with tab := v.generated, valid := true }) :=
  exec_slotWrite hk rfl rfl (by simp [stateError, hv, hr]) (by simp [writeOf])

/-- DEFTAB on an empty slot writes the Parameter Set, its table and VALID, if the parameters fit. -/
theorem runInstrs_deftab {w16 refin refout : Bool} {p i x : Half} {filled : Slot}
    (hfilled : filled = ⟨⟨w16, refin, refout⟩, p, i, x, false, v.tab⟩) (hr : filled.inRange = true) :
    runInstrs (deftab k w16 p i refin refout x) (s.setSlot k v) =
      .next (s.setSlot k { filled with tab := filled.generated, valid := true }) := by
  subst hfilled
  simp [deftab, runInstrs, andThen, exec_cfg_of_empty, exec_poly_of_empty, exec_init_of_empty, exec_xout_of_empty,
    exec_build_of_inRange, hk, hv, hr]

end

/-- Settles O49: the first four commands fill the empty slot and BUILD finds parameters that fit. -/
theorem deftabBuildsParameterSet : Obligations.DeftabBuildsParameterSet := by
  unfold Obligations.DeftabBuildsParameterSet
  intro k w16 refin refout p i x s hk hv hfit
  have hr : (⟨⟨w16, refin, refout⟩, p, i, x, false, (s.slot k).tab⟩ : Slot).inRange = true := by
    cases w16 with
    | true => simp [Slot.inRange, Slot.width]
    | false => simpa [Slot.inRange, Slot.width, fits_iff, Width.bits, and_assoc] using hfit rfl
  have hrun := runInstrs_deftab hk hv rfl hr
  rw [setSlot_self] at hrun
  refine ⟨_, hrun, by simp [Slot.generated, Slot.width], ?_⟩
  exact ⟨fun j hj => by simp [hj], fun _ => rfl, rfl, ⟨rfl, rfl⟩, rfl, rfl, rfl, rfl⟩

end Sys2Proof.Machine
end

section
/-! The table function (spec/40_table_generator.md R101): what it is to reflection and to XOR, and with it the
properties R102 lists. -/

namespace Sys2Proof.Machine

theorem repeatN_eq_iterate {α : Type} (f : α → α) (n : Nat) (a : α) : repeatN f n a = f^[n] a := by
  induction n generalizing a with
  | zero => rfl
  | succ n ih => exact ih (f a)

section
variable (w : Width) (p : Half)

/-! ### Bounds (R102 item 2) -/

/-- A division step leaves a value that fits, whatever it started from. -/
theorem fits_repeatN_divStep (n : Nat) (r : Half) : fits w (repeatN (divStep w p) (n + 1) r) = true := by
  rw [repeatN_eq_iterate, Function.iterate_succ_apply']
  exact fits_divStep w p _

theorem fits_genEntry (refin : Bool) (i : Byte) : fits w (genEntry w p refin i) = true := by
  cases refin with
  | true => exact fits_genEntry_of_refin w p i
  | false => exact fits_repeatN_divStep w p 7 _

/-! ### Linearity (R102 items 1 and 3) -/

/-- A division step shifts, and adds the polynomial exactly when the bit shifted out is set. -/
theorem divStep_eq (r : Half) :
    divStep w p r = mask w (r <<< 1) ^^^ if r.getLsbD (Width.bits w - 1) then mask w p else 0 := by
  unfold divStep
  split
  · exact mask_xor w _ _
  · exact BitVec.xor_zero.symm

theorem divStep_xor (a b : Half) : divStep w p (a ^^^ b) = divStep w p a ^^^ divStep w p b := by
  have hbit (x y : Bool) (q : Half) :
      (if x ^^ y then q else 0) = (if x then q else 0) ^^^ if y then q else 0 := by
    cases x <;> cases y <;> simp
  simp only [divStep_eq, BitVec.shiftLeft_xor_distrib, mask_xor, BitVec.getLsbD_xor, hbit]
  ac_rfl

theorem repeatN_divStep_xor (n : Nat) (a b : Half) :
    repeatN (divStep w p) n (a ^^^ b) = repeatN (divStep w p) n a ^^^ repeatN (divStep w p) n b := by
  have h : Function.Semiconj₂ (divStep w p) (· ^^^ ·) (· ^^^ ·) := divStep_xor w p
  simpa only [repeatN_eq_iterate] using h.iterate n a b

theorem reflect_zero : reflect w 0 = 0 := by
  cases w <;> decide

/-- The reflection of an XOR, bit by bit. -/
theorem reflect_xor (a b : Half) : reflect w (a ^^^ b) = reflect w a ^^^ reflect w b := by
  apply BitVec.eq_of_getLsbD_eq
  intro i _
  rw [BitVec.getLsbD_xor]
  by_cases hi : i < Width.bits w
  · simp only [reflect_getLsbD w _ i hi, BitVec.getLsbD_xor]
  · simp only [getLsbD_eq_false_of_fits (fits_reflect w _) (Nat.not_lt.1 hi), Bool.xor_false]

theorem placeByte_xor (refin : Bool) (i j : Byte) :
    placeByte w refin (i ^^^ j) = placeByte w refin i ^^^ placeByte w refin j := by
  cases refin with
  | true => simp [placeByte, BitVec.setWidth_xor, reflect_xor]
  | false => simp [placeByte, BitVec.setWidth_xor, BitVec.shiftLeft_xor_distrib]

theorem genEntry_xor (refin : Bool) (i j : Byte) :
    genEntry w p refin (i ^^^ j) = genEntry w p refin i ^^^ genEntry w p refin j := by
  cases refin with
  | true => simp [genEntry, placeByte_xor, repeatN_divStep_xor, reflect_xor]
  | false => simp [genEntry, placeByte_xor, repeatN_divStep_xor]

/-- Entry 0 is that of `0 XOR 0`, the XOR of an entry with itself. -/
theorem genEntry_zero (refin : Bool) : genEntry w p refin 0 = 0 := by
  simpa using genEntry_xor w p refin 0 0

/-! ### The reflected table (R102 items 5 and 6) -/

/-- The byte is placed in the top byte of the register in both conventions (R101). -/
theorem placeByte_of_refin (i : Byte) : placeByte w true i = placeByte w false (reflectByte i) := by
  cases w with
  | w8 => simp [placeByte, reflect_w8_setWidth, Width.bits]
  | w16 => simp [placeByte, reflect_w16_setWidth, reflect_w8_setWidth, Width.bits]

theorem genEntry_of_refin (i : Byte) : genEntry w p true i = reflect w (genEntry w p false (reflectByte i)) := by
  simp [genEntry, placeByte_of_refin]

/-- One least-significant-bit-first division step, by the reflected polynomial `q` (R102 item 5). -/
def lsbStep (q r : Half) : Half := if r.getLsbD 0 then (r >>> 1) ^^^ q else r >>> 1

theorem reflect_mask (v : Half) : reflect w (mask w v) = reflect w v := by
  rw [← reflect_reflect, reflect_reflect_of_fits (fits_reflect w v)]

/-- Reflection turns the shift around: bit `i` of both sides is bit `w-2-i` of `r`, and the top bit is 0. -/
theorem reflect_mask_shiftLeft (r : Half) : reflect w (mask w (r <<< 1)) = reflect w r >>> 1 := by
  rw [reflect_mask]
  apply BitVec.eq_of_getLsbD_eq
  intro i _
  rw [BitVec.getLsbD_ushiftRight]
  by_cases hi : 1 + i < Width.bits w
  · have hw : Width.bits w ≤ 16 := by cases w <;> decide
    rw [reflect_getLsbD w _ i (by omega), reflect_getLsbD w r _ hi, BitVec.getLsbD_shiftLeft]
    simp [show Width.bits w - 1 - i < 16 by omega, show Width.bits w - 1 - i ≠ 0 by omega,
      show Width.bits w - 1 - i - 1 = Width.bits w - 1 - (1 + i) by omega]
  · rw [getLsbD_eq_false_of_fits (fits_reflect w r) (Nat.not_lt.1 hi)]
    by_cases htop : i < Width.bits w
    · rw [reflect_getLsbD w _ i htop, show Width.bits w - 1 - i = 0 by omega]
      simp
    · exact getLsbD_eq_false_of_fits (fits_reflect w _) (Nat.not_lt.1 htop)

theorem getLsbD_zero_reflect (r : Half) : (reflect w r).getLsbD 0 = r.getLsbD (Width.bits w - 1) := by
  cases w with
  | w8 => exact reflect_getLsbD .w8 r 0 (by decide)
  | w16 => exact reflect_getLsbD .w16 r 0 (by decide)

/-- A division step, seen in the reflected register, is the least-significant-bit-first one. -/
theorem reflect_divStep (r : Half) : reflect w (divStep w p r) = lsbStep (reflect w p) (reflect w r) := by
  unfold lsbStep
  rw [divStep_eq, reflect_xor, reflect_mask_shiftLeft, getLsbD_zero_reflect]
  split
  · rw [reflect_mask]
  · rw [reflect_zero]
    exact BitVec.xor_zero

theorem fits_setWidth_byte (i : Byte) : fits w (i.setWidth 16) = true := by
  cases w with
  | w8 =>
    rw [fits_iff, BitVec.toNat_setWidth_of_le (by decide)]
    exact i.isLt
  | w16 => exact fits_w16 _

theorem genEntry_of_refin_eq_lsb (i : Byte) :
    genEntry w p true i = repeatN (lsbStep (reflect w p)) 8 (i.setWidth 16) := by
  have h : Function.Semiconj (reflect w) (divStep w p) (lsbStep (reflect w p)) := reflect_divStep w p
  calc genEntry w p true i
    _ = reflect w ((divStep w p)^[8] (reflect w (i.setWidth 16))) := by simp [genEntry, placeByte, repeatN_eq_iterate]
    _ = (lsbStep (reflect w p))^[8] (reflect w (reflect w (i.setWidth 16))) := h.iterate_right 8 _
    _ = repeatN (lsbStep (reflect w p)) 8 (i.setWidth 16) := by
      rw [reflect_reflect_of_fits (fits_setWidth_byte w i), repeatN_eq_iterate]

/-! ### The zero polynomial (R102 item 4) -/

/-- With polynomial 0 a least-significant-bit-first step only shifts. -/
theorem lsbStep_zero (r : Half) : lsbStep 0 r = r >>> 1 := by
  simp [lsbStep]

theorem repeatN_lsbStep_zero (n : Nat) (r : Half) : repeatN (lsbStep 0) n r = r >>> n := by
  induction n generalizing r with
  | zero => rfl
  | succ n ih => rw [repeatN, ih, lsbStep_zero, ← BitVec.shiftRight_add, Nat.add_comm]

/-- Eight shifts leave nothing of a byte; and an unreflected table holds the reflections of a reflected one. -/
theorem genEntry_zeroPoly (refin : Bool) (i : Byte) : genEntry w 0 refin i = 0 := by
  have hreflected (i : Byte) : genEntry w 0 true i = 0 := by
    rw [genEntry_of_refin_eq_lsb, reflect_zero, repeatN_lsbStep_zero]
    apply BitVec.eq_of_getLsbD_eq
    intro n _
    simp
  cases refin with
  | true => exact hreflected i
  | false =>
    have h : reflect w (genEntry w 0 false i) = 0 := by
      simpa [genEntry_of_refin, reflectByte] using hreflected (reflectByte i)
    rw [← reflect_reflect_of_fits (fits_genEntry w 0 false i), h, reflect_zero]

end

/-- Settles O39: linearity gives entry 0, each division step keeps the width, and without a polynomial the eight steps
only shift. -/
theorem tableEntriesZeroAndBounded : Obligations.TableEntriesZeroAndBounded := by
  unfold Obligations.TableEntriesZeroAndBounded
  intro w p refin i
  simp only [entryOf_genTable]
  exact ⟨genEntry_zero w p refin, fits_genEntry w p refin i, genEntry_zeroPoly w refin i⟩

/-- Settles O40: placing the byte, each division step and the reflection distribute over XOR. -/
theorem tableIsLinear : Obligations.TableIsLinear := by
  unfold Obligations.TableIsLinear
  intro w p refin i j _
  simp only [entryOf_genTable]
  exact genEntry_xor w p refin i j

/-- Settles O41: reflection carries each division step to the least-significant-bit-first one, and the placed byte to
that of the reflected index. -/
theorem reflectedTableForms : Obligations.ReflectedTableForms := by
  unfold Obligations.ReflectedTableForms
  intro w p i _
  simp only [entryOf_genTable]
  exact ⟨genEntry_of_refin_eq_lsb w p i, genEntry_of_refin w p i⟩

end Sys2Proof.Machine
end

section
/-! The commands of the table generator (spec/40_table_generator.md R105 to R110): their checks, and the one slot each
of them writes. -/

namespace Sys2Proof.Machine

/-! ### A command whose one operand is a slot -/

section
variable {i : Instr} {s : State} {k : Index} (hc : channelOperand i = none) (hs : slotOperand i = some k)
include hc hs

/-- The slot index is checked before anything else (R204). -/
theorem rejects_badSlot (hk : s.cfg.numTables ≤ k.toNat) : Rejects i s .badSlot :=
  rejects_of_raisedError (by simp [raisedError, hc, hs, outOfRange, hk])

/-- On a slot of the block the state check decides (R204). -/
theorem rejects_of_stateError {e : ErrorCode} (hk : k.toNat < s.cfg.numTables) (he : stateError i s = some e) :
    Rejects i s e :=
  rejects_of_raisedError (by simpa [raisedError, hc, hs, outOfRange, Nat.not_le.2 hk] using he)

/-- A command that passes its checks completes, and writes its slot and nothing else. -/
theorem exec_onlySlotChanged {v : Slot} (hk : k.toNat < s.cfg.numTables) (he : stateError i s = none)
    (hw : writeOf i s = .slot k v) : ∃ t, exec i s = .next t ∧ t.slot k = v ∧ OnlySlotChanged k s t := by
  rw [← setSlot_self s k] at he hw
  have h := exec_slotWrite hk hc hs he hw
  rw [setSlot_self] at h
  exact ⟨_, h, by simp, fun j hj => by simp [hj], fun _ => rfl, rfl, ⟨rfl, rfl⟩, rfl, rfl, rfl, rfl⟩

end

/-! ### CFG, POLY, INIT, XOUT (R105 to R108) -/

/-- Settles O1: its checks, then the write of the slot's configuration. -/
theorem cfgConfiguresEmptySlot : Obligations.CfgConfiguresEmptySlot := by
  unfold Obligations.CfgConfiguresEmptySlot
  refine ⟨rowDecodes_cfg, fun k w16 refin refout s => ⟨?badSlot, ?locked, ?accepted⟩⟩
  case badSlot => exact rejects_badSlot rfl rfl
  case locked => exact fun hk hv => rejects_of_stateError rfl rfl hk (by simp [stateError, hv])
  case accepted => exact fun hk hv => exec_onlySlotChanged rfl rfl hk (by simp [stateError, hv]) rfl

/-- Settles O2: POLY, INIT and XOUT have the checks of CFG, and each writes its own register. -/
theorem polyInitXoutStoreImmediate : Obligations.PolyInitXoutStoreImmediate := by
  unfold Obligations.PolyInitXoutStoreImmediate
  refine ⟨rowDecodes_poly, rowDecodes_init, rowDecodes_xout, fun k v s => ⟨?rejected, fun hk hv => ?accepted⟩⟩
  case rejected =>
    intro i hi
    have hshape : channelOperand i = none ∧ slotOperand i = some k ∧
        ((s.slot k).valid = true → stateError i s = some .slotLocked) := by
      simp only [List.mem_cons, List.not_mem_nil, or_false] at hi
      obtain rfl | rfl | rfl := hi <;> simp +contextual [channelOperand, slotOperand, stateError]
    obtain ⟨hc, hs, hlocked⟩ := hshape
    exact ⟨rejects_badSlot hc hs, fun hk hv => rejects_of_stateError hc hs hk (hlocked hv)⟩
  case accepted =>
    have hempty : (if (s.slot k).valid then some ErrorCode.slotLocked else none) = none := by simp [hv]
    exact ⟨exec_onlySlotChanged rfl rfl hk hempty rfl, exec_onlySlotChanged rfl rfl hk hempty rfl,
      exec_onlySlotChanged rfl rfl hk hempty rfl⟩

/-! ### BUILD (R109, R111) -/

/-- Settles O3: a slot that is not empty or not in range is rejected in that order; else its generated table is
written. -/
theorem buildGeneratesTable : Obligations.BuildGeneratesTable := by
  unfold Obligations.BuildGeneratesTable
  refine ⟨rowDecodes_build, fun k s => ⟨?badSlot, ?locked, ?range, ?accepted⟩⟩
  case badSlot => exact rejects_badSlot rfl rfl
  case locked => exact fun hk hv => rejects_of_stateError rfl rfl hk (by simp [stateError, hv])
  case range =>
    intro hk hv hr
    exact rejects_of_stateError rfl rfl hk (by simp [stateError, hv, Slot.inRange, hr])
  case accepted =>
    intro hk hv hpoly hinit hxout
    have hr : (s.slot k).inRange = true := by simp [Slot.inRange, hpoly, hinit, hxout]
    obtain ⟨t, ht, hslot, hframe⟩ := exec_onlySlotChanged (i := .build k) rfl rfl hk (by simp [stateError, hv, hr]) rfl
    exact ⟨t, ht, fun i => by simp [hslot, Slot.tabRead, Slot.generated], by rw [hslot], hframe⟩

/-- A BUILD that succeeds leaves the table generated from the slot's Parameter Set. -/
theorem tab_of_build {s t : State} {k : Index} (he : raisedError (.build k) s = none)
    (h : exec (.build k) s = .next t) : (t.slot k).tab = (s.slot k).generated := by
  obtain rfl := exec_next.1 h
  rw [commandOutcome_of_none he]
  simp [writeOf, State.write]

/-- Settles O42: the generated table is computed from W16, REFIN and POLY alone. -/
theorem equalParametersGiveEqualTables : Obligations.EqualParametersGiveEqualTables := by
  unfold Obligations.EqualParametersGiveEqualTables
  intro s s' t t' k k' he he' hw16 hrefin hpoly h h'
  rw [tab_of_build he h, tab_of_build he' h']
  simp only [Slot.generated, Slot.width, hw16, hrefin, hpoly]

/-! ### FREE (R110) -/

/-- Settles O4: FREE does nothing to an empty slot, and a valid one has users exactly when a channel of the block is
bound to it. -/
theorem freeEmptiesUnusedSlot : Obligations.FreeEmptiesUnusedSlot := by
  unfold Obligations.FreeEmptiesUnusedSlot
  refine ⟨rowDecodes_free, fun k s => ⟨?badSlot, ?empty, ?inUse, ?accepted⟩⟩
  case badSlot => exact rejects_badSlot rfl rfl
  case empty =>
    intro hk hv
    rw [exec, execFree, withSlot_next]
    exact .inl ⟨hk, by simp [hv]⟩
  case inUse =>
    intro hk hv hbound
    have hused : 0 < s.users k := (users_pos s k).2 hbound
    exact rejects_of_stateError rfl rfl hk (by simp [stateError, hv, hused])
  case accepted =>
    intro hk _ hnone
    have hunused : ¬ 0 < s.users k := fun h => by
      obtain ⟨c, hexists, hbound, htsel⟩ := (users_pos s k).1 h
      exact hnone c hexists hbound htsel
    obtain ⟨t, ht, hslot, hframe⟩ := exec_onlySlotChanged (i := .free k) rfl rfl hk (by simp [stateError, hunused]) rfl
    exact ⟨t, ht, by rw [hslot], hframe⟩

end Sys2Proof.Machine
end

section
/-! The fold of one byte (spec/41_accumulator.md R134) against the bit-serial CRC (R137): eight bits of `Canon` are
eight division steps of the register with the byte placed in its top byte, and these are one table entry and a shift.
The reflected fold is the reflection of the other one. -/

namespace Sys2Proof.Machine

/-! ### The bytes of a register -/

/-- The top byte of a `w`-bit register: what the non-reflected fold reads of it to index the table (R134). -/
def topByte (w : Width) (v : Half) : Byte := (v >>> (Width.bits w - 8)).setWidth 8

theorem reflectByte_getLsbD (b : Byte) (i : Nat) (hi : i < 8) : (reflectByte b).getLsbD i = b.getLsbD (7 - i) := by
  rw [reflectByte, BitVec.getLsbD_reverse, BitVec.getMsbD_eq_getLsbD]
  simp [hi]

theorem reflectByte_xor (a b : Byte) : reflectByte (a ^^^ b) = reflectByte a ^^^ reflectByte b := by
  apply BitVec.eq_of_getLsbD_eq
  intro i hi
  simp only [reflectByte_getLsbD _ i hi, BitVec.getLsbD_xor]

/-- Reflection carries the top byte to the low byte: bit `i` is bit `w-1-i` of the register. -/
theorem setWidth_reflect (w : Width) (v : Half) : (reflect w v).setWidth 8 = reflectByte (topByte w v) := by
  apply BitVec.eq_of_getLsbD_eq
  intro i hi
  have hw : 8 ≤ Width.bits w := by cases w <;> decide
  rw [reflectByte_getLsbD _ i hi, topByte, BitVec.getLsbD_setWidth, BitVec.getLsbD_setWidth,
    BitVec.getLsbD_ushiftRight, reflect_getLsbD w v i (by omega)]
  simp [hi, show 7 - i < 8 by omega, show Width.bits w - 8 + (7 - i) = Width.bits w - 1 - i by omega]

/-- A register of width 8 is its top byte. -/
theorem placeByte_topByte_w8 {v : Half} (hv : fits .w8 v = true) : placeByte .w8 false (topByte .w8 v) = v := by
  have h : v.toNat < 256 := (fits_iff .w8 v).1 hv
  apply BitVec.eq_of_toNat_eq
  simp [placeByte, topByte, Width.bits]
  omega

/-- A register of width 16 is its top byte and its low byte. -/
theorem placeByte_topByte_w16 (v : Half) :
    placeByte .w16 false (topByte .w16 v) ^^^ (v.setWidth 8).setWidth 16 = v := by
  apply BitVec.eq_of_getLsbD_eq
  intro i hi
  by_cases h8 : i < 8
  · simp [topByte, placeByte, Width.bits, h8, hi]
  · have hlow : ¬ i < 8 ∧ i - 8 < 8 := by omega
    simp [topByte, placeByte, Width.bits, hlow, hi, show 8 + (i - 8) = i by omega]

/-! ### Shifts by a byte -/

theorem mask_w16 (v : Half) : mask .w16 v = v := mask_of_fits (fits_w16 v)

/-- Of a register of width 8 a shift by a byte leaves nothing. -/
theorem mask_w8_shiftLeft (v : Half) : mask .w8 (v <<< 8) = 0#16 := by
  apply BitVec.eq_of_getLsbD_eq
  intro i _
  rw [mask_getLsbD]
  by_cases hi : i < 8 <;> simp [Width.bits, hi]

theorem ushiftRight_eq_zero_of_fits {v : Half} (hv : fits .w8 v = true) : v >>> 8 = 0#16 := by
  apply BitVec.eq_of_toNat_eq
  simpa [Nat.shiftRight_eq_div_pow, Width.bits] using (fits_iff .w8 v).1 hv

/-- Reflection turns a shift by any distance around. -/
theorem reflect_mask_shiftLeft_by (w : Width) (r : Half) (n : Nat) :
    reflect w (mask w (r <<< n)) = reflect w r >>> n := by
  induction n with
  | zero => simp [reflect_mask]
  | succ n ih =>
    rw [BitVec.shiftLeft_add, reflect_mask_shiftLeft, ← reflect_mask, ih, BitVec.shiftRight_add]

/-! ### Eight bits of `Canon` are eight division steps -/

section
variable {w : Width} {p : Half}

theorem getLsbD_placeByte_top (w : Width) (b : Byte) :
    (placeByte w false b).getLsbD (Width.bits w - 1) = b.getLsbD 7 := by
  cases w <;> simp [placeByte, Width.bits]

theorem mask_placeByte_shiftLeft (w : Width) (b : Byte) :
    mask w (placeByte w false b <<< 1) = placeByte w false (b <<< 1) := by
  apply BitVec.eq_of_toNat_eq
  have hb := b.isLt
  rw [mask_toNat]
  cases w <;> simp [placeByte, Width.bits, Nat.shiftLeft_eq] <;> omega

/-- A division step of the register with a byte placed on top takes in the byte's most significant bit, and leaves the
bits below it placed. -/
theorem divStep_xor_placeByte (hp : fits w p = true) (r : Half) (b : Byte) :
    divStep w p (r ^^^ placeByte w false b) = canonBit w p r (b.getLsbD 7) ^^^ placeByte w false (b <<< 1) := by
  rw [divStep_eq, BitVec.shiftLeft_xor_distrib, mask_xor, mask_placeByte_shiftLeft, BitVec.getLsbD_xor,
    getLsbD_placeByte_top, mask_of_fits hp, canonBit, Bool.xor_comm]
  ac_rfl

/-- Eight steps take in the whole byte, and leave nothing of it placed. -/
theorem repeatN_divStep_xor_placeByte (hp : fits w p = true) (r : Half) (b : Byte) :
    repeatN (divStep w p) 8 (r ^^^ placeByte w false b) =
      [7, 6, 5, 4, 3, 2, 1, 0].foldl (fun r n => canonBit w p r (b.getLsbD n)) r := by
  have hnone : placeByte w false 0#8 = 0#16 := by cases w <;> decide
  simp [repeatN, divStep_xor_placeByte hp, ← BitVec.shiftLeft_add, hnone]

/-! ### Eight division steps are one table entry and a shift -/

/-- No bit of the low byte reaches the top in eight steps. -/
theorem repeatN_divStep_lowByte (p : Half) (b : Byte) :
    repeatN (divStep .w16 p) 8 (b.setWidth 16) = b.setWidth 16 <<< 8 := by
  simp [repeatN, divStep, Width.bits, mask_w16, ← BitVec.shiftLeft_add]

/-- By linearity the top byte gives its table entry, and what is below it is shifted up. -/
theorem repeatN_divStep_register {v : Half} (hv : fits w v = true) :
    repeatN (divStep w p) 8 v = genEntry w p false (topByte w v) ^^^ mask w (v <<< 8) := by
  cases w with
  | w8 => simp [genEntry, placeByte_topByte_w8 hv, mask_w8_shiftLeft]
  | w16 =>
    have hshift : (v.setWidth 8).setWidth 16 <<< 8 = v <<< 8 := by
      apply BitVec.eq_of_toNat_eq
      simp [Nat.shiftLeft_eq]
      omega
    calc repeatN (divStep .w16 p) 8 v
      _ = repeatN (divStep .w16 p) 8 (placeByte .w16 false (topByte .w16 v) ^^^ (v.setWidth 8).setWidth 16) := by
        rw [placeByte_topByte_w16]
      _ = genEntry .w16 p false (topByte .w16 v) ^^^ (v.setWidth 8).setWidth 16 <<< 8 := by
        rw [repeatN_divStep_xor, repeatN_divStep_lowByte]
        rfl
      _ = genEntry .w16 p false (topByte .w16 v) ^^^ mask .w16 (v <<< 8) := by rw [hshift, mask_w16]

end

/-! ### The fold is one byte of `Canon`, in the slot's convention -/

/-- The byte as `Canon` takes its bits: reversed first when `REFIN = 1` (R137). -/
def Slot.inputByte (sl : Slot) (d : Byte) : Byte := if sl.scfg.refin then reflectByte d else d

/-- A canonical remainder as the channel's register holds it (R133). -/
def Slot.register (sl : Slot) (r : Half) : Half := if sl.scfg.refin then reflect sl.width r else r

theorem register_init (sl : Slot) : sl.register sl.init = sl.initReg := rfl

section
variable {sl : Slot}

/-- One byte of `Canon` through the non-reflected table, whatever REFIN says. -/
theorem canonByte_eq (hp : fits sl.width sl.poly = true) {r : Half} (hr : fits sl.width r = true) (d : Byte) :
    sl.canonByte r d =
      genEntry sl.width sl.poly false (topByte sl.width r ^^^ sl.inputByte d) ^^^ mask sl.width (r <<< 8) := by
  have hsteps : sl.canonByte r d =
      repeatN (divStep sl.width sl.poly) 8 (r ^^^ placeByte sl.width false (sl.inputByte d)) :=
    (repeatN_divStep_xor_placeByte hp r _).symm
  rw [hsteps, repeatN_divStep_xor, repeatN_divStep_register hr, genEntry_xor]
  simp only [genEntry]
  ac_rfl

theorem fits_canonByte (hp : fits sl.width sl.poly = true) {r : Half} (hr : fits sl.width r = true) (d : Byte) :
    fits sl.width (sl.canonByte r d) = true := by
  rw [canonByte_eq hp hr]
  exact fits_xor (fits_genEntry _ _ _ _) (fits_mask _ _)

theorem fold_of_not_refin (ht : sl.tab = sl.generated) (hrefin : sl.scfg.refin = false) (v : Half) (b : Byte) :
    sl.fold v b = genEntry sl.width sl.poly false (topByte sl.width v ^^^ b) ^^^ mask sl.width (v <<< 8) := by
  simp [Slot.fold, hrefin, Slot.tabRead, ht, Slot.generated, mask_xor, mask_of_fits (fits_genEntry _ _ _ _),
    topByte, BitVec.setWidth_xor]

theorem fold_of_refin (ht : sl.tab = sl.generated) (hrefin : sl.scfg.refin = true) (v : Half) (b : Byte) :
    sl.fold v b = genEntry sl.width sl.poly true (v.setWidth 8 ^^^ b) ^^^ v >>> 8 := by
  simp [Slot.fold, hrefin, Slot.tabRead, ht, Slot.generated, BitVec.setWidth_xor]

/-- The table index and the shifted register of the reflected fold are those of the other fold, reflected. -/
theorem fold_register (ht : sl.tab = sl.generated) (hp : fits sl.width sl.poly = true) {r : Half}
    (hr : fits sl.width r = true) (b : Byte) : sl.fold (sl.register r) b = sl.register (sl.canonByte r b) := by
  rw [canonByte_eq hp hr]
  cases hrefin : sl.scfg.refin with
  | false => simp [Slot.register, Slot.inputByte, hrefin, fold_of_not_refin ht]
  | true =>
    have hindex : reflectByte ((reflect sl.width r).setWidth 8 ^^^ b) = topByte sl.width r ^^^ reflectByte b := by
      rw [setWidth_reflect, reflectByte_xor, reflectByte, reflectByte, BitVec.reverse_reverse_eq]
    simp only [Slot.register, Slot.inputByte, hrefin, if_true]
    rw [fold_of_refin ht hrefin, genEntry_of_refin, hindex, reflect_xor, reflect_mask_shiftLeft_by]

theorem foldSeq_register (ht : sl.tab = sl.generated) (hp : fits sl.width sl.poly = true) (d : List Byte) {r : Half}
    (hr : fits sl.width r = true) :
    sl.foldSeq (sl.register r) d = sl.register (d.foldl sl.canonByte r) ∧
      fits sl.width (d.foldl sl.canonByte r) = true := by
  induction d generalizing r with
  | nil => exact ⟨rfl, hr⟩
  | cons b d ih =>
    rw [foldSeq_cons, fold_register ht hp hr]
    exact ih (fits_canonByte hp hr b)

/-- The range check passes exactly when each parameter fits (R103). -/
theorem inRange_iff :
    sl.inRange = true ↔
      fits sl.width sl.poly = true ∧ fits sl.width sl.init = true ∧ fits sl.width sl.xout = true := by
  simp only [Slot.inRange, Bool.and_eq_true, and_assoc]

/-- From the seed of R132 the register holds `Canon` in the slot's convention (R137). -/
theorem foldSeq_initReg (ht : sl.tab = sl.generated) (hrange : sl.inRange = true) (d : List Byte) :
    sl.foldSeq sl.initReg d = sl.register (sl.canon d) ∧ fits sl.width (sl.canon d) = true := by
  obtain ⟨hpoly, hinit, -⟩ := inRange_iff.1 hrange
  rw [← register_init]
  exact foldSeq_register ht hpoly d hinit

theorem fits_final (sl : Slot) (v : Half) : fits sl.width (sl.final v) = true := fits_mask _ _

/-- Finalization undoes the register convention, whatever it is (R136). -/
theorem final_register (hrange : sl.inRange = true) {r : Half} (hr : fits sl.width r = true) :
    sl.final (sl.register r) = (if sl.scfg.refout then reflect sl.width r else r) ^^^ sl.xout := by
  obtain ⟨-, -, hxout⟩ := inRange_iff.1 hrange
  have hcanon : (if sl.scfg.refin then reflect sl.width (sl.register r) else sl.register r) = r := by
    cases hrefin : sl.scfg.refin <;> simp [Slot.register, hrefin, reflect_reflect_of_fits hr]
  have hout : fits sl.width (if sl.scfg.refout then reflect sl.width r else r) = true := by
    split
    · exact fits_reflect _ _
    · exact hr
  rw [Slot.final, hcanon]
  exact mask_of_fits (fits_xor hout hxout)

end

/-- Settles O43: either fold is an entry XOR the shifted register, and of a register of width 8 the shift leaves
nothing. -/
theorem foldStaysInWidth : Obligations.FoldStaysInWidth := by
  unfold Obligations.FoldStaysInWidth
  intro sl v b hv ht
  refine ⟨fits_fold ht hv b, fun hw => ?_⟩
  rw [hw] at hv
  cases hrefin : sl.scfg.refin with
  | true =>
    rw [fold_of_refin ht hrefin, ushiftRight_eq_zero_of_fits hv]
    simp [Slot.tabRead, ht, Slot.generated, hrefin]
  | false =>
    rw [fold_of_not_refin ht hrefin, hw, mask_w8_shiftLeft]
    simp [Slot.tabRead, ht, Slot.generated, hrefin, hw, topByte, Width.bits]

/-- Settles O44: the reflections of R136 cancel when REFIN and REFOUT agree. -/
theorem finalReflectsThenXors : Obligations.FinalReflectsThenXors := by
  unfold Obligations.FinalReflectsThenXors
  intro sl v
  refine ⟨fits_final sl v, fun hv hxout => ?_⟩
  have hdirect : mask sl.width (v ^^^ sl.xout) = v ^^^ sl.xout := mask_of_fits (fits_xor hv hxout)
  have hreflected : mask sl.width (reflect sl.width v ^^^ sl.xout) = reflect sl.width v ^^^ sl.xout :=
    mask_of_fits (fits_xor (fits_reflect _ v) hxout)
  cases hrefin : sl.scfg.refin <;> cases hrefout : sl.scfg.refout <;>
    simp [Slot.final, hrefin, hrefout, reflect_reflect_of_fits hv, hdirect, hreflected]

end Sys2Proof.Machine
end

section
/-! The commands of a Digest Engine (spec/41_accumulator.md R140 to R144): their checks, and what each of them
writes. -/

namespace Sys2Proof.Machine

/-! ### What an accepted command does -/

section
variable {i : Instr} {s : State} {c : Index} (he : raisedError i s = none)
include he

theorem exec_write : exec i s = .next (s.write (writeOf i s)) := by
  rw [exec_eq, commandOutcome_of_none he]

theorem exec_onlyChannelChanged {v : Channel} (hw : writeOf i s = .channel c v) :
    ∃ t, exec i s = .next t ∧ t.channel c = v ∧ OnlyChannelChanged c s t := by
  refine ⟨_, exec_write he, ?_⟩
  rw [hw]
  exact ⟨by simp [State.write], fun _ => rfl, fun j hj => by simp [State.write, hj], rfl, ⟨rfl, rfl⟩,
    rfl, rfl, rfl, rfl⟩

theorem exec_onlyResChanged {v : Word} (hw : writeOf i s = .result v) :
    ∃ t, exec i s = .next t ∧ t.res = v ∧ OnlyResChanged s t := by
  refine ⟨_, exec_write he, ?_⟩
  rw [hw]
  exact ⟨rfl, fun _ => rfl, fun _ => rfl, ⟨rfl, rfl⟩, rfl, rfl, rfl, rfl⟩

end

theorem exec_rejected {i : Instr} {s : State} {e : ErrorCode} (h : raisedError i s = some e) :
    exec i s = .next (s.recordError e (encode i)) := by
  rw [exec_eq, commandOutcome_of_error h]

/-- The channel index is checked before anything else (R204). -/
theorem raisedError_badChannel {i : Instr} {s : State} {c : Index} (hi : channelOperand i = some c)
    (hc : s.cfg.numChannels ≤ c.toNat) : raisedError i s = some .badChannel := by
  simp [raisedError, hi, outOfRange, hc]

theorem rejects_badChannel {i : Instr} {s : State} {c : Index} (hi : channelOperand i = some c)
    (hc : s.cfg.numChannels ≤ c.toNat) : Rejects i s .badChannel :=
  rejects_of_raisedError (raisedError_badChannel hi hc)

/-! ### A command whose one operand is a channel -/

section
variable {i : Instr} {s : State} {c : Index} (hi : channelOperand i = some c) (hs : slotOperand i = none)
include hi hs

/-- On a channel of the block the state check decides (R204). -/
theorem raisedError_of_channel (hc : c.toNat < s.cfg.numChannels) : raisedError i s = stateError i s := by
  simp [raisedError, hi, hs, outOfRange, Nat.not_le.2 hc]

theorem rejects_unbound (he : stateError i s = if (s.channel c).bound then none else some .unbound)
    (hc : c.toNat < s.cfg.numChannels) (hb : (s.channel c).bound = false) : Rejects i s .unbound :=
  rejects_of_raisedError (by rw [raisedError_of_channel hi hs hc, he, hb]; rfl)

theorem raisedError_of_bound (he : stateError i s = if (s.channel c).bound then none else some .unbound)
    (hc : c.toNat < s.cfg.numChannels) (hb : (s.channel c).bound = true) : raisedError i s = none := by
  rw [raisedError_of_channel hi hs hc, he, hb]
  rfl

end

/-! ### BIND (R140) -/

theorem initReg_of_refin {sl : Slot} (h : sl.scfg.refin = true) : sl.initReg = reflect sl.width sl.init := if_pos h

theorem initReg_of_not_refin {sl : Slot} (h : sl.scfg.refin = false) : sl.initReg = sl.init := by
  simp [Slot.initReg, h]

section
variable {s : State} {c k : Index} (hc : c.toNat < s.cfg.numChannels)
include hc

theorem raisedError_bind_badSlot (hk : s.cfg.numTables ≤ k.toNat) : raisedError (.bind c k) s = some .badSlot := by
  simp [raisedError, channelOperand, slotOperand, outOfRange, Nat.not_le.2 hc, hk]

theorem raisedError_bind (hk : k.toNat < s.cfg.numTables) :
    raisedError (.bind c k) s = if (s.slot k).valid then none else some .slotEmpty := by
  simp [raisedError, channelOperand, slotOperand, outOfRange, Nat.not_le.2 hc, Nat.not_le.2 hk, stateError]

end

/-- Settles O5: BIND's checks in the order of R204, then the seed of R132 for either REFIN. -/
theorem bindSeedsChannel : Obligations.BindSeedsChannel := by
  unfold Obligations.BindSeedsChannel
  refine ⟨rowDecodes_bind, fun c k s => ⟨?badChannel, ?badSlot, ?empty, ?accepted⟩⟩
  case badChannel => exact rejects_badChannel rfl
  case badSlot => exact fun hc hk => rejects_of_raisedError (raisedError_bind_badSlot hc hk)
  case empty => exact fun hc hk hv => rejects_of_raisedError (by simp [raisedError_bind hc hk, hv])
  case accepted =>
    intro hc hk hv
    have he : raisedError (.bind c k) s = none := by simp [raisedError_bind hc hk, hv]
    obtain ⟨t, ht, hchannel, hframe⟩ := exec_onlyChannelChanged he rfl
    refine ⟨t, ht, ?_⟩
    rw [hchannel]
    exact ⟨rfl, rfl, initReg_of_refin, initReg_of_not_refin, hframe⟩

/-! ### UNBIND, RESET, UPD, SUM (R141 to R144) -/

/-- Settles O6: UNBIND has no state check. -/
theorem unbindClearsChannel : Obligations.UnbindClearsChannel := by
  unfold Obligations.UnbindClearsChannel
  refine ⟨rowDecodes_unbind, fun c s => ⟨?badChannel, ?accepted⟩⟩
  case badChannel => exact rejects_badChannel rfl
  case accepted => exact fun hc => exec_onlyChannelChanged (raisedError_of_channel rfl rfl hc) rfl

/-- Settles O7: RESET writes the seed of the slot the channel is bound to. -/
theorem resetReseedsChannel : Obligations.ResetReseedsChannel := by
  unfold Obligations.ResetReseedsChannel
  refine ⟨rowDecodes_reset, fun c s => ⟨?badChannel, ?unbound, ?accepted⟩⟩
  case badChannel => exact rejects_badChannel rfl
  case unbound => exact rejects_unbound rfl rfl rfl
  case accepted =>
    intro hc hb
    have he : raisedError (.reset c) s = none := raisedError_of_bound rfl rfl rfl hc hb
    obtain ⟨t, ht, hchannel, hframe⟩ := exec_onlyChannelChanged he rfl
    refine ⟨t, ht, ?_⟩
    rw [hchannel]
    exact ⟨hb, rfl, initReg_of_refin, initReg_of_not_refin, hframe⟩

/-- UPD has the checks of every engine command, whatever it carries. -/
theorem checks_chunk (x : Chunk) (c : Index) (s : State) :
    channelOperand (x.instr c) = some c ∧ slotOperand (x.instr c) = none ∧
      stateError (x.instr c) s = if (s.channel c).bound then none else some .unbound := by
  cases x <;> exact ⟨rfl, rfl, rfl⟩

theorem writeOf_chunk (x : Chunk) (c : Index) (s : State) : writeOf (x.instr c) s = feedWrite s c x.bytes := by
  cases x <;> rfl

/-- Settles O8: the three encodings of UPD have the checks and the write of one chunk of bytes each. -/
theorem updFoldsBytesInOrder : Obligations.UpdFoldsBytesInOrder := by
  unfold Obligations.UpdFoldsBytesInOrder
  refine ⟨rowDecodes_upd0, rowDecodes_upd1, rowDecodes_upd2, fun c b0 b1 s => ⟨?rejected, fun hc hb => ?accepted⟩⟩
  case rejected =>
    intro i hi
    obtain ⟨x, rfl⟩ : ∃ x : Chunk, i = x.instr c := by
      simp only [List.mem_cons, List.not_mem_nil, or_false] at hi
      obtain rfl | rfl | rfl := hi
      · exact ⟨.none, rfl⟩
      · exact ⟨.one b0, rfl⟩
      · exact ⟨.two b0 b1, rfl⟩
    obtain ⟨hchannel, hslot, hstate⟩ := checks_chunk x c s
    exact ⟨rejects_badChannel hchannel, rejects_unbound hchannel hslot hstate⟩
  case accepted =>
    exact ⟨exec_onlyChannelChanged (raisedError_of_bound rfl rfl rfl hc hb) rfl,
      exec_onlyChannelChanged (raisedError_of_bound rfl rfl rfl hc hb) rfl,
      exec_onlyChannelChanged (raisedError_of_bound rfl rfl rfl hc hb) rfl⟩

/-- Settles O9: the finalized register fits the width, and is zero-extended. -/
theorem sumPlacesChecksumInRes : Obligations.SumPlacesChecksumInRes := by
  unfold Obligations.SumPlacesChecksumInRes
  refine ⟨rowDecodes_sum, fun c s => ⟨?badChannel, ?unbound, ?accepted⟩⟩
  case badChannel => exact rejects_badChannel rfl
  case unbound => exact rejects_unbound rfl rfl rfl
  case accepted =>
    intro hc hb
    have he : raisedError (.sum c) s = none := raisedError_of_bound rfl rfl rfl hc hb
    obtain ⟨t, ht, hres, hframe⟩ := exec_onlyResChanged he rfl
    have hfits := (fits_iff _ _).1 (fits_final (s.slot (s.channel c).tsel) (s.channel c).crc)
    refine ⟨t, ht, hres, hframe, ?_⟩
    rw [hres, BitVec.toNat_setWidth_of_le (by decide)]
    exact ⟨fun hw => by rwa [hw] at hfits, BitVec.isLt _⟩

end Sys2Proof.Machine
end

section
/-! Runs of UPD on one channel (spec/41_accumulator.md R135, R137, R138): what they leave is the fold of the bytes in
order, however they are cut, and from the seed it is the bit-serial CRC. -/

namespace Sys2Proof.Machine

theorem foldSeq_append (sl : Slot) (v : Half) (d e : List Byte) :
    sl.foldSeq v (d ++ e) = sl.foldSeq (sl.foldSeq v d) e := by
  induction d generalizing v with
  | nil => rfl
  | cons b d ih => exact ih (sl.fold v b)

theorem write_feedWrite_nil (s : State) (c : Index) : s.write (feedWrite s c []) = s := setChannel_self s c

/-- Bytes written after others are written with them. -/
theorem write_feedWrite_append (s : State) (c : Index) (d e : List Byte) :
    (s.write (feedWrite s c d)).write (feedWrite (s.write (feedWrite s c d)) c e) =
      s.write (feedWrite s c (d ++ e)) := by
  simp [feedWrite, State.write, foldSeq_append]

/-- The UPD commands write the fold of all their bytes into the channel's register. -/
theorem runInstrs_chunks {s : State} {c : Index} (hc : c.toNat < s.cfg.numChannels) (xs : List Chunk)
    (hb : (s.channel c).bound = true) :
    runInstrs (xs.map (Chunk.instr c)) s = .next (s.write (feedWrite s c (xs.flatMap Chunk.bytes))) := by
  induction xs generalizing s with
  | nil => rw [List.flatMap_nil, write_feedWrite_nil]; rfl
  | cons x xs ih =>
    obtain ⟨hchannel, hslot, hstate⟩ := checks_chunk x c s
    have hx : exec (x.instr c) s = .next (s.write (feedWrite s c x.bytes)) := by
      rw [exec_write (raisedError_of_bound hchannel hslot hstate hc hb), writeOf_chunk]
    have hrest := ih (s := s.write (feedWrite s c x.bytes)) hc (by simpa [feedWrite, State.write] using hb)
    rw [List.map_cons, runInstrs, hx, List.flatMap_cons, ← write_feedWrite_append]
    exact hrest

/-- Settles O45: both runs leave the fold of the same bytes. -/
theorem feedingIsAssociative : Obligations.FeedingIsAssociative := by
  unfold Obligations.FeedingIsAssociative
  intro c s xs ys hc hb hbytes
  refine ⟨_, runInstrs_chunks hc xs hb, ?_, by simp [feedWrite, State.write]⟩
  rw [runInstrs_chunks hc ys hb, hbytes]

section
variable {s : State} {c k : Index} (hc : c.toNat < s.cfg.numChannels)
include hc

theorem exec_bind_of_valid (hk : k.toNat < s.cfg.numTables) (hv : (s.slot k).valid = true) :
    exec (.bind c k) s = .next (s.setChannel c { bound := true, tsel := k, crc := (s.slot k).initReg }) :=
  exec_write (by simp [raisedError_bind hc hk, hv])

/-- RESET of a channel bound to the slot leaves what BIND leaves (R138 item 4). -/
theorem exec_reset_of_bound (hb : (s.channel c).bound = true) (ht : (s.channel c).tsel = k) :
    exec (.reset c) s = .next (s.setChannel c { bound := true, tsel := k, crc := (s.slot k).initReg }) := by
  rw [exec_write (raisedError_of_bound rfl rfl rfl hc hb), ← hb, ← ht]
  rfl

theorem exec_sum_of_bound (hb : (s.channel c).bound = true) :
    exec (.sum c) s = .next (s.setRes (((s.slot (s.channel c).tsel).final (s.channel c).crc).setWidth 32)) :=
  exec_write (raisedError_of_bound rfl rfl rfl hc hb)

/-- SUM of a channel that holds the remainder `r` in its slot's convention. -/
theorem exec_sum_of_register (hrange : (s.slot k).inRange = true) {r : Half} (hr : fits (s.slot k).width r = true) :
    exec (.sum c) (s.setChannel c { bound := true, tsel := k, crc := (s.slot k).register r }) =
      .next ((s.setChannel c { bound := true, tsel := k, crc := (s.slot k).register r }).setRes
        (((if (s.slot k).scfg.refout then reflect (s.slot k).width r else r) ^^^ (s.slot k).xout).setWidth 32)) := by
  rw [exec_sum_of_bound (s := s.setChannel c _) hc (by simp), ← final_register hrange hr]
  simp

end

/-- Settles O46: BIND and RESET leave one state, in which the register holds INIT in the slot's convention. -/
theorem emptyInputChecksum : Obligations.EmptyInputChecksum := by
  unfold Obligations.EmptyInputChecksum
  intro c k s hc hk hv hrange
  obtain ⟨-, hinit, -⟩ := inRange_iff.1 hrange
  have hbind := exec_bind_of_valid hc hk hv
  have hsum := exec_sum_of_register hc hrange hinit
  rw [register_init] at hsum
  refine ⟨⟨_, _, hbind, ?_, hsum, rfl⟩, fun hb ht => ⟨_, _, exec_reset_of_bound hc hb ht, hbind, hsum, rfl⟩⟩
  rw [exec_reset_of_bound (s := s.setChannel c _) (k := k) hc (by simp) (by simp)]
  simp

/-- Settles O47: BIND and RESET seed the channel, the UPD commands fold their bytes into it, the fold of each byte is
one byte of `Canon` in the slot's convention, and SUM undoes the convention. -/
theorem checksumEqualsBitSerialCrc : Obligations.ChecksumEqualsBitSerialCrc := by
  unfold Obligations.ChecksumEqualsBitSerialCrc
  intro c k s start xs hc hk hv hinv hstart
  obtain ⟨-, hrange, htab⟩ := hinv hv
  obtain ⟨hfold, hfits⟩ := foldSeq_initReg htab hrange (xs.flatMap Chunk.bytes)
  have hseed : exec start s = .next (s.setChannel c { bound := true, tsel := k, crc := (s.slot k).initReg }) := by
    obtain rfl | ⟨rfl, hb, ht⟩ := hstart
    · exact exec_bind_of_valid hc hk hv
    · exact exec_reset_of_bound hc hb ht
  have hfeed := runInstrs_chunks (s := s.setChannel c { bound := true, tsel := k, crc := (s.slot k).initReg })
    hc xs (by simp)
  have hrun : runInstrs (start :: xs.map (Chunk.instr c)) s = .next (s.setChannel c
      { bound := true, tsel := k, crc := (s.slot k).register ((s.slot k).canon (xs.flatMap Chunk.bytes)) }) := by
    simp [runInstrs, hseed, andThen, hfeed, feedWrite, State.write, hfold]
  exact ⟨_, _, hrun, by simp [Slot.register], exec_sum_of_register hc hrange hfits, rfl⟩

end Sys2Proof.Machine
end

section
/-! The host's functions (spec/41_accumulator.md R150 to R153): the commands a host issues do to the block what they do
run one after the other, and the accesses that carry them only join the history. -/

namespace Sys2Proof.Machine

/-! ### Commands issued by the host -/

/-- The host's write of a command's word executes the command. -/
theorem hostWriteCmd_encode (i : Instr) (s : State) :
    hostWriteCmd (encode i) s = exec i (s.record (s.cmdWrite (encode i)) none) :=
  (hostAccess_cmdWrite s (encode i)).trans (execute_of_ok (decode_encode i) _)

/-- Nothing but the host's side may differ: the command index and the history, which no command reads. -/
abbrev OnlyHostSideChanged (s t : State) : Prop :=
  t.cfg = s.cfg ∧ SlotsSame s t ∧ ChannelsSame s t ∧ t.res = s.res ∧ ErrorRecordSame s t

/-- The writes of CMD by which the host gives the commands, joined to the history one after the other. -/
def State.recordCommands (s : State) (is : List Instr) : State :=
  is.foldl (fun s i => s.record (s.cmdWrite (encode i)) none) s

section
variable (s : State) (is : List Instr)

theorem recordCommands_cons (i : Instr) :
    s.recordCommands (i :: is) = (s.record (s.cmdWrite (encode i)) none).recordCommands is := rfl

/-- A command reads nothing of the host's side, so an access may join the history before it or after it. -/
theorem commandOutcome_record (i : Instr) (a : BusAccess) (data : Option Word) :
    commandOutcome i (s.record a data) = (commandOutcome i s).record a data := by
  have he : raisedError i (s.record a data) = raisedError i s := rfl
  have hw : writeOf i (s.record a data) = writeOf i s := by cases i <;> rfl
  cases hi : raisedError i s with
  | some e => rw [commandOutcome_of_error hi, commandOutcome_of_error (he.trans hi)]; rfl
  | none =>
    rw [commandOutcome_of_none hi, commandOutcome_of_none (he.trans hi), hw]
    cases writeOf i s <;> rfl

/-- The same of all the accesses that carry commands: no command moves the window. -/
theorem commandOutcome_recordCommands (i : Instr) :
    (commandOutcome i s).recordCommands is = commandOutcome i (s.recordCommands is) := by
  induction is generalizing s with
  | nil => rfl
  | cons j is ih =>
    have hbase : (commandOutcome i s).cmdWrite (encode j) = s.cmdWrite (encode j) := by
      obtain ⟨hcfg, -⟩ := commandOutcome_hostSide i s
      simp only [State.cmdWrite, hcfg]
    rw [recordCommands_cons, recordCommands_cons, hbase, ← commandOutcome_record, ih]

/-- Commands the host issues do to the block what they do without a bus. -/
theorem issue_eq : issue is s = runInstrs is (s.recordCommands is) := by
  induction is generalizing s with
  | nil => rfl
  | cons i is ih =>
    rw [issue, runInstrs, hostWriteCmd_encode, exec_eq, exec_eq, recordCommands_cons, ← commandOutcome_recordCommands]
    exact ih _

theorem recordCommands_onlyHostSide : OnlyHostSideChanged s (s.recordCommands is) := by
  induction is generalizing s with
  | nil => exact ⟨rfl, fun _ => rfl, fun _ => rfl, rfl, rfl, rfl⟩
  | cons i is ih => exact ih (s.record (s.cmdWrite (encode i)) none)

theorem runInstrs_next : ∃ t, runInstrs is s = .next t := by
  induction is generalizing s with
  | nil => exact ⟨s, rfl⟩
  | cons i is ih =>
    rw [runInstrs, exec_eq]
    exact ih _

end

/-! ### `write` (R150) -/

/-- `write` runs the UPD commands of some cut of its bytes, at least one, on the block as it is. -/
theorem hostWrite_eq (c : Index) (d : List Byte) (s : State) :
    ∃ x xs s', OnlyHostSideChanged s s' ∧ List.flatMap Chunk.bytes (x :: xs) = d ∧
      hostWrite c d s = andThen (runInstrs ((x :: xs).map (Chunk.instr c)) s')
        (fun t => .next ((d.length, newError s.status t.status), t)) := by
  obtain ⟨⟨chunks, hfeed, hbytes⟩, hlength⟩ := feedCarriesItsBytes c d
  cases chunks with
  | nil =>
    obtain rfl : d = [] := hbytes.symm
    simp [hfeed] at hlength
  | cons x xs => exact ⟨x, xs, _, recordCommands_onlyHostSide s _, hbytes, by rw [hostWrite, hfeed, issue_eq]⟩

/-- After the first error, or a later one of the same code, ERRCODE is its code (R203). -/
theorem record_errcode {st : Status} {e : ErrorCode} (h : st.err = true → st.errcode = e.code) :
    (st.record e).errcode = e.code := by
  cases herr : st.err with
  | false => simp [Status.record, herr]
  | true => simpa [Status.record, herr] using h herr

/-- Commands that all raise `e` leave the code of `e`: no check reads the record, so the later ones are rejected as the
first is. -/
theorem runInstrs_rejected {e : ErrorCode} (i : Instr) (is : List Instr) {s : State}
    (h : ∀ j ∈ i :: is, raisedError j s = some e) (hs : s.status.err = true → s.status.errcode = e.code) :
    ∃ t, runInstrs (i :: is) s = .next t ∧ t.status.err = true ∧ t.status.errcode = e.code := by
  induction is generalizing i s with
  | nil =>
    rw [runInstrs, exec_rejected (h i List.mem_cons_self)]
    exact ⟨_, rfl, record_err _ e, record_errcode hs⟩
  | cons j is ih =>
    have hrest : ∀ l ∈ j :: is, raisedError l (s.recordError e (encode i)) = some e :=
      fun l hl => h l (List.mem_cons_of_mem i hl)
    rw [runInstrs, exec_rejected (h i List.mem_cons_self)]
    exact ih j hrest (fun _ => record_errcode hs)

/-- With no error recorded before, `write` reports the error that its UPD commands raise. -/
theorem hostWrite_rejected {c : Index} {s : State} {e : ErrorCode} (d : List Byte) (herr : s.status.err = false)
    (hraised : ∀ (x : Chunk) (t : State), t.cfg = s.cfg → t.channel c = s.channel c →
      raisedError (x.instr c) t = some e) :
    ∃ t st, hostWrite c d s = .next ((d.length, some st), t) ∧ st.err = true ∧ st.errcode = e.code := by
  obtain ⟨x, xs, s', ⟨hcfg, -, hchannels, -, hstatus, -⟩, -, hwrite⟩ := hostWrite_eq c d s
  have hall : ∀ j ∈ (x :: xs).map (Chunk.instr c), raisedError j s' = some e := by
    simpa only [List.forall_mem_map] using fun y _ => hraised y s' hcfg (hchannels c)
  obtain ⟨t, hrun, hterr, hcode⟩ := runInstrs_rejected _ _ hall (fun h => by simp [hstatus, herr] at h)
  have hnew : newError s.status t.status = some t.status := if_neg (fun h => by simp [h, herr] at hterr)
  exact ⟨t, t.status, by rw [hwrite, List.map_cons, hrun, andThen, hnew], hterr, hcode⟩

/-- Settles O50: `write` runs UPD commands that carry its bytes; on a bound channel they fold them, else all of them
raise one error. -/
theorem hostWriteReportsCount : Obligations.HostWriteReportsCount := by
  unfold Obligations.HostWriteReportsCount
  intro c d s
  refine ⟨?completes, ?bound, ?unbound, ?absent⟩
  case completes =>
    obtain ⟨x, xs, s', -, -, hwrite⟩ := hostWrite_eq c d s
    obtain ⟨t, hrun⟩ := runInstrs_next s' ((x :: xs).map (Chunk.instr c))
    exact ⟨t, newError s.status t.status, by rw [hwrite, hrun, andThen], by simp [newError]⟩
  case bound =>
    intro hc hb
    obtain ⟨x, xs, s', ⟨hcfg, hslots, hchannels, -, hstatus, -⟩, hbytes, hwrite⟩ := hostWrite_eq c d s
    have hrun := runInstrs_chunks (s := s') (by rwa [hcfg]) (x :: xs) (by rwa [hchannels c])
    rw [hbytes] at hrun
    have hnew : newError s.status (s'.write (feedWrite s' c d)).status = none := if_pos hstatus
    exact ⟨_, by rw [hwrite, hrun, andThen, hnew], by simp [feedWrite, State.write, hslots, hchannels c]⟩
  case unbound =>
    intro herr hc hb
    refine hostWrite_rejected (e := .unbound) d herr fun x t hcfg hchannel => ?_
    obtain ⟨hi, hs, he⟩ := checks_chunk x c t
    rw [raisedError_of_channel hi hs (by rwa [hcfg]), he, hchannel, hb]
    rfl
  case absent =>
    intro herr hc
    refine hostWrite_rejected (e := .badChannel) d herr fun x t hcfg _ => ?_
    obtain ⟨hi, -, -⟩ := checks_chunk x c t
    exact raisedError_badChannel hi (by rwa [hcfg])

/-! ### `sum`, `sum8`, `sum16`, `size`, `blockSize`, `reset` (R151 to R153) -/

/-- A command that is accepted and writes RES, then the host's read of RES: the value written, and no channel
changed. -/
theorem issueAndRead_of_result {i : Instr} {s : State} {v : Word} (he : raisedError i s = none)
    (hw : writeOf i s = .result v) : ∃ t, issueAndRead i s = .next (v, t) ∧ ChannelsSame s t := by
  have hissue : issueAndRead i s = hostReadRes ((s.setRes v).record (s.cmdWrite (encode i)) none) := by
    rw [issueAndRead, hostWriteCmd_encode, exec_eq, commandOutcome_record, commandOutcome_of_none he, hw]
    rfl
  exact ⟨_, hissue.trans (hostReadRes_eq _), fun _ => rfl⟩

section
variable {c : Index} {s : State} (hc : c.toNat < s.cfg.numChannels) (hb : (s.channel c).bound = true)
include hc hb

theorem issueAndRead_sum : ∃ t, issueAndRead (.sum c) s =
    .next (((s.slot (s.channel c).tsel).final (s.channel c).crc).setWidth 32, t) ∧ ChannelsSame s t :=
  issueAndRead_of_result (raisedError_of_bound rfl rfl rfl hc hb) rfl

/-- RDINFO gives blockSize 1 in the second byte and the size in the first (R173). -/
theorem issueAndRead_rdinfo : ∃ t, issueAndRead (.rdinfo c) s =
    .next (if (s.slot (s.channel c).tsel).scfg.w16 then 0x0102 else 0x0101, t) ∧ ChannelsSame s t := by
  have hw : writeOf (.rdinfo c) s = .result (if (s.slot (s.channel c).tsel).scfg.w16 then 0x0102 else 0x0101) := by
    cases h : (s.slot (s.channel c).tsel).scfg.w16 <;> simp [writeOf, Slot.width, h, Width.bits]
  exact issueAndRead_of_result (raisedError_of_bound rfl rfl rfl hc hb) hw

end

/-- Settles O51: each function serializes or cuts the zero-extended checksum that SUM leaves in RES. -/
theorem hostSumSerializesChecksum : Obligations.HostSumSerializesChecksum := by
  unfold Obligations.HostSumSerializesChecksum
  intro c buffer s hc hb
  obtain ⟨t, hread, hsame⟩ := issueAndRead_sum hc hb
  refine ⟨⟨t, ?sum, hsame⟩, ⟨t, ?sum8, hsame⟩, ⟨t, ?sum16, hsame⟩⟩
  case sum =>
    rw [hostSum, hread, State.channelWidth, Slot.width]
    cases (s.slot (s.channel c).tsel).scfg.w16 <;> simp [andThen, serialize, BitVec.extractLsb'_setWidth_of_le]
  case sum8 =>
    rw [hostSum8, hread]
    simp [andThen, BitVec.extractLsb'_setWidth_of_le]
  case sum16 =>
    rw [hostSum16, hread]
    simp [andThen, BitVec.extractLsb'_setWidth_of_le]

/-- Settles O52: `size` and `blockSize` cut what RDINFO leaves in RES, and `reset` is the command after its access has
joined the history. -/
theorem hostSizeBlockSizeReset : Obligations.HostSizeBlockSizeReset := by
  unfold Obligations.HostSizeBlockSizeReset
  intro c s hc hb
  obtain ⟨t, hread, hsame⟩ := issueAndRead_rdinfo hc hb
  refine ⟨⟨t, ?size, hsame⟩, ⟨t, ?blockSize, hsame⟩, ?reset⟩
  case size =>
    rw [hostSize, hread]
    cases (s.slot (s.channel c).tsel).scfg.w16 <;> simp [andThen]
  case blockSize =>
    rw [hostBlockSize, hread]
    cases (s.slot (s.channel c).tsel).scfg.w16 <;> simp [andThen]
  case reset =>
    have hreset : hostReset c s =
        .next ((commandOutcome (.reset c) s).record (s.cmdWrite (encode (.reset c))) none) := by
      rw [hostReset, hostWriteCmd_encode, exec_eq, commandOutcome_record]
    exact ⟨_, _, hreset, exec_eq _ s, fun _ => rfl, fun _ => rfl⟩

end Sys2Proof.Machine
end

section
/-! The commands of the read-back and control family (spec/42_readback_control.md R170 to R182): a READ places a
register in RES as the number its layout says and changes nothing else; CLRERR writes the error record alone, and NOP
nothing. -/

namespace Sys2Proof.Machine

/-! ### The layouts, as numbers -/

/-- Fields side by side: the high one counts in units of the low one's range. -/
theorem toNat_append_eq_add {m n : Nat} (x : BitVec m) (y : BitVec n) :
    (x ++ y).toNat = 2 ^ n * x.toNat + y.toNat := by
  rw [BitVec.toNat_append, ← Nat.shiftLeft_add_eq_or_of_lt y.isLt, Nat.shiftLeft_eq, Nat.mul_comm]

/-- R34: ERRCODE from bit 4, MULTI at bit 1, ERR at bit 0. -/
theorem toNat_statusWord (st : Status) :
    st.word.toNat = 16 * st.errcode.toNat + 2 * st.multi.toNat + st.err.toNat := by
  rw [Status.word, BitVec.toNat_setWidth_of_le (by decide)]
  simp only [toNat_append_eq_add, BitVec.toNat_ofBool, BitVec.toNat_ofNat]
  omega

/-- R180: TSEL from bit 4, BOUND at bit 0. -/
theorem toNat_channelStatus (tsel : Index) (bound : Bool) :
    ((tsel ++ 0#3 ++ BitVec.ofBool bound).setWidth 32).toNat = 16 * tsel.toNat + bound.toNat := by
  rw [BitVec.toNat_setWidth_of_le (by decide)]
  simp only [toNat_append_eq_add, BitVec.toNat_ofBool, BitVec.toNat_ofNat]
  omega

/-- R176: four bits, the first one highest. -/
theorem toNat_slotConfig (valid refout refin w16 : Bool) :
    ((BitVec.ofBool valid ++ BitVec.ofBool refout ++ BitVec.ofBool refin ++ BitVec.ofBool w16).setWidth 32).toNat =
      8 * valid.toNat + 4 * refout.toNat + 2 * refin.toNat + w16.toNat := by
  rw [BitVec.toNat_setWidth_of_le (by decide)]
  simp only [toNat_append_eq_add, BitVec.toNat_ofBool]
  omega

/-! ### An accepted READ (R170) -/

section
variable {i : Instr} {s : State} (he : raisedError i s = none)
include he

theorem exec_res_toNat {v : Word} {n : Nat} (hw : writeOf i s = .result v) (hv : v.toNat = n) :
    ∃ t, exec i s = .next t ∧ t.res.toNat = n ∧ OnlyResChanged s t := by
  obtain ⟨t, ht, hres, hframe⟩ := exec_onlyResChanged he hw
  exact ⟨t, ht, by rw [hres, hv], hframe⟩

/-- A register of 16 bits is read zero-extended. -/
theorem exec_res_half {v : Half} (hw : writeOf i s = .result (v.setWidth 32)) :
    ∃ t, exec i s = .next t ∧ t.res.toNat = v.toNat ∧ OnlyResChanged s t :=
  exec_res_toNat he hw (BitVec.toNat_setWidth_of_le (by decide))

end

/-- On a slot of the block the state check decides (R204). -/
theorem raisedError_of_slot {i : Instr} {s : State} {k : Index} (hc : channelOperand i = none)
    (hs : slotOperand i = some k) (hk : k.toNat < s.cfg.numTables) : raisedError i s = stateError i s := by
  simp [raisedError, hc, hs, outOfRange, Nat.not_le.2 hk]

/-! ### The reads of a channel (R171, R173, R180) -/

/-- Settles O10: RDCRC and RDINFO have the checks of an engine command, RDCHST the check of the index alone. -/
theorem channelReadsPlaceRegisterInRes : Obligations.ChannelReadsPlaceRegisterInRes := by
  unfold Obligations.ChannelReadsPlaceRegisterInRes
  refine ⟨rowDecodes_rdcrc, rowDecodes_rdinfo, rowDecodes_rdchst, fun c s =>
    ⟨?badChannel, ?unbound, fun hc hb => ⟨?rdcrc, ?rdinfo⟩, ?rdchst⟩⟩
  case badChannel =>
    simp only [List.forall_mem_cons]
    exact ⟨rejects_badChannel rfl, rejects_badChannel rfl, rejects_badChannel rfl, List.forall_mem_nil _⟩
  case unbound =>
    simp only [List.forall_mem_cons]
    exact ⟨rejects_unbound rfl rfl rfl, rejects_unbound rfl rfl rfl, List.forall_mem_nil _⟩
  case rdcrc => exact exec_res_half (raisedError_of_bound rfl rfl rfl hc hb) rfl
  case rdinfo =>
    obtain ⟨t, ht, hres, hframe⟩ := exec_onlyResChanged (i := .rdinfo c) (raisedError_of_bound rfl rfl rfl hc hb) rfl
    refine ⟨t, ht, ?_, hframe⟩
    rw [hres]
    cases (s.slot (s.channel c).tsel).width with
    | w8 => rfl
    | w16 => rfl
  case rdchst =>
    exact fun hc => exec_res_toNat (raisedError_of_channel rfl rfl hc) rfl (toNat_channelStatus _ _)

/-! ### The reads of a slot (R172, R176 to R179) -/

/-- Settles O11: all five check the slot's index, and RDTAB alone its state. -/
theorem slotReadsPlaceRegisterInRes : Obligations.SlotReadsPlaceRegisterInRes := by
  unfold Obligations.SlotReadsPlaceRegisterInRes
  refine ⟨rowDecodes_rdtab, rowDecodes_rdscfg, rowDecodes_rdpoly, rowDecodes_rdinit, rowDecodes_rdxout, fun k idx s =>
    ⟨?badSlot, ?empty, ?rdtab, fun hk => ⟨?rdscfg, ?rdpoly, ?rdinit, ?rdxout⟩⟩⟩
  case badSlot =>
    simp only [List.forall_mem_cons]
    exact ⟨rejects_badSlot rfl rfl, rejects_badSlot rfl rfl, rejects_badSlot rfl rfl, rejects_badSlot rfl rfl,
      rejects_badSlot rfl rfl, List.forall_mem_nil _⟩
  case empty => exact fun hk hv => rejects_of_stateError rfl rfl hk (by simp [stateError, hv])
  case rdtab =>
    intro hk hv
    have he : raisedError (.rdtab k idx) s = none := by rw [raisedError_of_slot rfl rfl hk, stateError, if_pos hv]
    exact exec_res_half he rfl
  case rdscfg => exact exec_res_toNat (raisedError_of_slot rfl rfl hk) rfl (toNat_slotConfig _ _ _ _)
  case rdpoly => exact exec_res_half (raisedError_of_slot rfl rfl hk) rfl
  case rdinit => exact exec_res_half (raisedError_of_slot rfl rfl hk) rfl
  case rdxout => exact exec_res_half (raisedError_of_slot rfl rfl hk) rfl

/-! ### The error record and NOP (R174, R175, R181, R182) -/

/-- Settles O12: RDSTAT and RDERR have no operand and no state check, so every state accepts them. -/
theorem errorRecordReads : Obligations.ErrorRecordReads := by
  unfold Obligations.ErrorRecordReads
  refine ⟨rowDecodes_rdstat, rowDecodes_rderr, fun s => ⟨?rdstat, ?rderr⟩⟩
  case rdstat => exact exec_res_toNat rfl rfl (toNat_statusWord s.status)
  case rderr => exact exec_onlyResChanged rfl rfl

/-- Settles O13: CLRERR is accepted in every state, and its write is one of the error record. -/
theorem clrerrClearsErrorRecord : Obligations.ClrerrClearsErrorRecord := by
  unfold Obligations.ClrerrClearsErrorRecord
  refine ⟨rowDecodes_clrerr, fun s => ⟨s.clearErrors, exec_write rfl, rfl, rfl, ?frame⟩⟩
  case frame => exact ⟨fun _ => rfl, fun _ => rfl, rfl, rfl, rfl, rfl, rfl⟩

/-- Settles O14: NOP is accepted in every state, and writes nothing. -/
theorem nopChangesNothing : Obligations.NopChangesNothing := by
  unfold Obligations.NopChangesNothing
  exact ⟨rowDecodes_nop, fun _ => exec_write rfl⟩

end Sys2Proof.Machine
end

section
/-! The error record (spec/60_exceptions.md R203 to R207, R216): what recording an error leaves alone, and which commands
leave the record alone. -/

namespace Sys2Proof.Machine

/-- Recording is "exactly this and nothing else" (R203). -/
theorem onlyErrorRecordChanged_recordError (e : ErrorCode) (w : Word) (s : State) :
    OnlyErrorRecordChanged s (s.recordError e w) :=
  ⟨fun _ => rfl, fun _ => rfl, rfl, rfl, rfl, rfl, rfl⟩

/-- CLRERR is the one command that clears the record (R181, R207). -/
theorem eq_clrerr_of_clearErrors {i : Instr} {s : State} (hw : writeOf i s = .clearErrors) : i = .clrerr := by
  cases i with
  | clrerr => rfl
  | _ => cases hw

/-- A command that raises no error leaves the record alone, unless it is CLRERR. -/
theorem commandOutcome_errorRecordSame {i : Instr} {s : State} (he : raisedError i s = none) (hi : i ≠ .clrerr) :
    ErrorRecordSame s (commandOutcome i s) := by
  rw [commandOutcome_of_none he]
  cases hw : writeOf i s with
  | clearErrors => exact absurd (eq_clrerr_of_clearErrors hw) hi
  | _ => exact ⟨rfl, rfl⟩

/-- Settles O27: the word recorded is the encoding of the command, which is the word it was decoded from. -/
theorem errorsAreOrderedRecordedPrecise : Obligations.ErrorsAreOrderedRecordedPrecise := by
  unfold Obligations.ErrorsAreOrderedRecordedPrecise
  refine ⟨fun w s r hd => ?illegal, fun w i s hd => ⟨fun e he => ?rejected, fun he => ?accepted⟩⟩
  case illegal =>
    exact ⟨_, execute_of_error hd s, errorRecorded_recordError .illegal w s,
      onlyErrorRecordChanged_recordError .illegal w s⟩
  case rejected =>
    obtain rfl := encode_of_decode hd
    rw [execute_of_ok hd]
    exact rejects_of_raisedError he
  case accepted =>
    rw [execute_of_ok hd]
    exact ⟨_, exec_eq i s, commandOutcome_errorRecordSame he⟩

/-- Settles O29: a rejected command records a later error, which sets MULTI only, and an accepted one leaves the
record. -/
theorem firstErrorIsKept : Obligations.FirstErrorIsKept := by
  unfold Obligations.FirstErrorIsKept
  intro i s t herr h hi
  obtain rfl := exec_next.1 h
  cases he : raisedError i s with
  | some e =>
    rw [commandOutcome_of_error he]
    obtain ⟨hset, -, hlater⟩ := errorRecorded_recordError e (encode i) s
    obtain ⟨hcode, herrcmd, hmulti⟩ := hlater herr
    exact ⟨hset, hcode, herrcmd, fun _ => hmulti⟩
  | none =>
    obtain ⟨hstatus, herrcmd⟩ := commandOutcome_errorRecordSame he hi
    rw [hstatus]
    exact ⟨herr, rfl, herrcmd, id⟩

/-- With no input pending a step has nothing to perform (R216). -/
theorem step_of_idle {s : State} (h : s.pending = []) : step s = .next s := by
  simp [step, stepInput, h]

/-- Settles O20, for a step of any state whose list of inputs is empty. -/
theorem idleStepHoldsState : Obligations.IdleStepHoldsState := by
  unfold Obligations.IdleStepHoldsState
  exact fun _ => step_of_idle

end Sys2Proof.Machine
end

section
/-! Block reset between two accesses (spec/70_reset_and_hazards.md R230, R231). -/

namespace Sys2Proof.Machine

/-- Settles O19: the step ends in `State.blockReset`, each of whose slots is `Slot.blockReset` of the slot before. -/
theorem blockResetInputResetsRegisters : Obligations.BlockResetInputResetsRegisters := by
  unfold Obligations.BlockResetInputResetsRegisters
  intro s rest hpending
  refine ⟨_, step_of_blockReset hpending, fun k => ?slot, channel_blockReset _, ?others⟩
  case slot =>
    rw [slot_blockReset]
    rfl
  case others => exact ⟨rfl, rfl, rfl, rfl, rfl, rfl, rfl⟩

end Sys2Proof.Machine
end
